-- ==== Sys2Proof/Word.lean ====
section
/-! DEFINITION. The word types of the block (00 section 6, R10): bytes, indexes into `S`, command and response words. -/

namespace Sys2Proof

/-- An unsigned 8-bit value: an entry of `S`, a cursor, a key byte, a data byte (00 section 6). -/
abbrev Byte := BitVec 8

/-- An unsigned 8-bit address into `S` (00 section 6). -/
abbrev Index := BitVec 8

/-- A command or response word: 32 bits, bit 31 the most significant (R10). -/
abbrev Word := BitVec 32

/-- The count field `N` of `FILL` and `READ`, 16 bits (R5, R65). -/
abbrev Count := BitVec 16

/-- The key-length field `L`, 9 bits (R5, R63). -/
abbrev KeyLen := BitVec 9

end Sys2Proof
end

