-- ==== Sys2Proof/Config.lean ====
section
/-! DEFINITION. The parameters of the block that a rule depends on (R5). The open timing parameters and the channel depth
are used by no rule (R195) and have no constant here (assumption log 10). -/

namespace Sys2Proof.Config

/-- `TABLE_SIZE`: the entries of the permutation memory (R5, R20). -/
abbrev tableSize : Nat := 256

/-- `KEY_MAX`: the longest key the transport carries (R5, R63). -/
abbrev keyMax : Nat := 256

/-- The largest count one `FILL` or `READ` carries: `N_W` is 16 bits (R5, R65). -/
abbrev countMax : Nat := 65535

end Sys2Proof.Config
end

