-- ==== Sys2Proof/Syntax.lean ====
section
/-! DEFINITION. The instructions: one constructor for each row of spec/opcode_table.json. The five operations (R62), the three
pseudo-operations (R75) and the seven kinds of reserved command word (R71), each with the fields its word carries. -/

namespace Sys2Proof

/-- One constructor per row of the opcode table. A field is a field of the command word (R61), but for `keystream`, whose
operand is the number the assembler expands (R75). -/
inductive Instr where
  /-- `INIT`, OP 0x1, key length `L` (R62, R63, R90). -/
  | init (l : KeyLen)
  /-- `AINIT`, OP 0x2, key length `L` (R62, R63, R110). -/
  | ainit (l : KeyLen)
  /-- `NEXT`, the word 0x30000000 (R64, R92). -/
  | next
  /-- `FILL`, OP 0x4, byte count `N` (R65, R93). -/
  | fill (n : Count)
  /-- `READ`, OP 0x5, buffer length `N` (R65, R111). -/
  | read (n : Count)
  /-- `ENCRYPT N`, a spelling of `READ N` (R75). -/
  | encrypt (n : Count)
  /-- `DECRYPT N`, a spelling of `READ N` (R75). -/
  | decrypt (n : Count)
  /-- `KEYSTREAM N`, which expands to `FILL`s (R75). -/
  | keystream (n : Nat)
  /-- A reserved word with `OP = 0x0` and `RSV = 0` (R71). -/
  | reservedOp0 (arg : BitVec 16)
  /-- A reserved word with `OP` 0x6 or 0x7 and `RSV = 0` (R71). -/
  | reservedOp6_7 (op : BitVec 4) (arg : BitVec 16)
  /-- A reserved word with `OP` 0x8 to 0xF and `RSV = 0` (R71). -/
  | reservedOp8_F (op : BitVec 4) (arg : BitVec 16)
  /-- A reserved word with `RSV` not zero, whatever its `OP` is: this row comes before every other (R71). -/
  | reservedRsv (op : BitVec 4) (rsv : BitVec 12) (arg : BitVec 16)
  /-- An `INIT` word whose `ARG` is over 256 (R63, R71). -/
  | reservedKeylenInit (arg : BitVec 16)
  /-- An `AINIT` word whose `ARG` is over 256 (R63, R71). -/
  | reservedKeylenAinit (arg : BitVec 16)
  /-- A `NEXT` word whose `ARG` is not zero (R64, R71). -/
  | reservedNextarg (arg : BitVec 16)
deriving DecidableEq, Repr

/-- A pseudo-operation: an assembler's name for words of other operations; no word decodes to it (R75). -/
def Instr.isPseudo : Instr → Bool
  | .encrypt _ | .decrypt _ | .keystream _ => true
  | .init _ | .ainit _ | .next | .fill _ | .read _ => false
  | .reservedOp0 _ | .reservedOp6_7 _ _ | .reservedOp8_F _ _ | .reservedRsv _ _ _ => false
  | .reservedKeylenInit _ | .reservedKeylenAinit _ | .reservedNextarg _ => false

/-- A reserved command word, refused with `ILLEGAL` (R71). -/
def Instr.isReserved : Instr → Bool
  | .reservedOp0 _ | .reservedOp6_7 _ _ | .reservedOp8_F _ _ | .reservedRsv _ _ _ => true
  | .reservedKeylenInit _ | .reservedKeylenAinit _ | .reservedNextarg _ => true
  | .init _ | .ainit _ | .next | .fill _ | .read _ => false
  | .encrypt _ | .decrypt _ | .keystream _ => false

end Sys2Proof
end

