-- ==== Sys2Proof/WellFormed.lean ====
section
/-! DEFINITION. Which instructions are well formed: the ranges the table's rows and R63, R64, R71 put on the fields. -/

namespace Sys2Proof

/-- The fields are in the range of the instruction's row of the opcode table. -/
def Instr.wellFormed : Instr → Bool
  | .init l => decide (l.toNat ≤ Config.keyMax)
  | .ainit l => decide (l.toNat ≤ Config.keyMax)
  | .next => true
  | .fill _ => true
  | .read _ => true
  | .encrypt _ => true
  | .decrypt _ => true
  | .keystream _ => true
  | .reservedOp0 _ => true
  | .reservedOp6_7 op _ => decide (op = 0x6#4 ∨ op = 0x7#4)
  | .reservedOp8_F op _ => decide (8 ≤ op.toNat)
  | .reservedRsv _ rsv _ => decide (rsv ≠ 0#12)
  | .reservedKeylenInit arg => decide (Config.keyMax < arg.toNat)
  | .reservedKeylenAinit arg => decide (Config.keyMax < arg.toNat)
  | .reservedNextarg arg => decide (arg ≠ 0#16)

end Sys2Proof
end

