-- ==== Sys2Proof/Decode.lean ====
section
/-! DEFINITION. The command word: its fields (R61), the total decoder (R77, R71), the expansion of the pseudo-operations (R75),
and the encoder. A word is moved whole and has no byte order (R10), so the decoder reads a `Word`, not bytes. -/

namespace Sys2Proof

/-- `OP`, bits 31:28 (R61). -/
def opField (w : Word) : BitVec 4 := w.extractLsb' 28 4

/-- `RSV`, bits 27:16 (R61). -/
def rsvField (w : Word) : BitVec 12 := w.extractLsb' 16 12

/-- `ARG`, bits 15:0 (R61). -/
def argField (w : Word) : BitVec 16 := w.extractLsb' 0 16

/-- The word with these fields (R61). -/
def packWord (op : BitVec 4) (rsv : BitVec 12) (arg : BitVec 16) : Word := op ++ rsv ++ arg

/-- `ARG[8:0]`, the key length (R63, R76). -/
def keyLenOfArg (arg : BitVec 16) : KeyLen := arg.setWidth 9

/-- `L` as the `ARG` field that carries it: `ARG[15:9]` is zero (R63). -/
def argOfKeyLen (l : KeyLen) : BitVec 16 := l.setWidth 16

/-- Decoding: total, and a word that names no operation becomes the reserved row it belongs to (R77, R71). `RSV` is looked at
first, as the row RESERVED.RSV takes precedence over every other. -/
def decode (w : Word) : Instr :=
  if rsvField w ≠ 0#12 then .reservedRsv (opField w) (rsvField w) (argField w)
  else if opField w = 0x0#4 then .reservedOp0 (argField w)
  else if opField w = 0x1#4 then
    if (argField w).toNat ≤ Config.keyMax then .init (keyLenOfArg (argField w)) else .reservedKeylenInit (argField w)
  else if opField w = 0x2#4 then
    if (argField w).toNat ≤ Config.keyMax then .ainit (keyLenOfArg (argField w)) else .reservedKeylenAinit (argField w)
  else if opField w = 0x3#4 then
    if argField w = 0#16 then .next else .reservedNextarg (argField w)
  else if opField w = 0x4#4 then .fill (argField w)
  else if opField w = 0x5#4 then .read (argField w)
  else if opField w = 0x6#4 ∨ opField w = 0x7#4 then .reservedOp6_7 (opField w) (argField w)
  else .reservedOp8_F (opField w) (argField w)

/-- The counts of the `FILL`s that `KEYSTREAM n` expands to: `floor(n / 65535)` times 65535, then the remainder when it is not
zero (R75, row KEYSTREAM; assumption log 9). -/
def keystreamCounts (n : Nat) : List Count :=
  List.replicate (n / Config.countMax) (BitVec.ofNat 16 Config.countMax) ++
    if n % Config.countMax = 0 then [] else [BitVec.ofNat 16 (n % Config.countMax)]

/-- What the assembler puts in place of an instruction: a pseudo-operation's expansion (R75), any other itself. -/
def expand : Instr → List Instr
  | .encrypt n => [.read n]
  | .decrypt n => [.read n]
  | .keystream n => (keystreamCounts n).map .fill
  | .init l => [.init l]
  | .ainit l => [.ainit l]
  | .next => [.next]
  | .fill n => [.fill n]
  | .read n => [.read n]
  | .reservedOp0 arg => [.reservedOp0 arg]
  | .reservedOp6_7 op arg => [.reservedOp6_7 op arg]
  | .reservedOp8_F op arg => [.reservedOp8_F op arg]
  | .reservedRsv op rsv arg => [.reservedRsv op rsv arg]
  | .reservedKeylenInit arg => [.reservedKeylenInit arg]
  | .reservedKeylenAinit arg => [.reservedKeylenAinit arg]
  | .reservedNextarg arg => [.reservedNextarg arg]

/-- The `INIT` word with key length `l` (R62, R63). -/
def initWord (l : KeyLen) : Word := packWord 0x1#4 0#12 (argOfKeyLen l)

/-- The `AINIT` word with key length `l` (R62, R63). -/
def ainitWord (l : KeyLen) : Word := packWord 0x2#4 0#12 (argOfKeyLen l)

/-- The `FILL` word with count `n` (R62, R65). -/
def fillWord (n : Count) : Word := packWord 0x4#4 0#12 n

/-- The `READ` word with buffer length `n`, which the core also sends downstream (R62, R65, R70). -/
def readWord (n : Count) : Word := packWord 0x5#4 0#12 n

/-- The command words of an instruction, in the order the host issues them: one, but for `KEYSTREAM` (R61, R75). -/
def encode : Instr → List Word
  | .init l => [initWord l]
  | .ainit l => [ainitWord l]
  | .next => [packWord 0x3#4 0#12 0#16]
  | .fill n => [fillWord n]
  | .read n => [readWord n]
  | .encrypt n => [readWord n]
  | .decrypt n => [readWord n]
  | .keystream n => (keystreamCounts n).map fillWord
  | .reservedOp0 arg => [packWord 0x0#4 0#12 arg]
  | .reservedOp6_7 op arg => [packWord op 0#12 arg]
  | .reservedOp8_F op arg => [packWord op 0#12 arg]
  | .reservedRsv op rsv arg => [packWord op rsv arg]
  | .reservedKeylenInit arg => [packWord 0x1#4 0#12 arg]
  | .reservedKeylenAinit arg => [packWord 0x2#4 0#12 arg]
  | .reservedNextarg arg => [packWord 0x3#4 0#12 arg]

/-- The command word a table row's number stands for: its `nbits` low bits, the bits above them zero. None for a width
over the one 32-bit format (R61, R73). -/
def tableWord (nbits w : Nat) : Option Word :=
  if 0 < nbits ∧ nbits ≤ 32 then some (BitVec.ofNat 32 (w % 2 ^ nbits)) else none

/-- The instruction the decoder reads from a table word; the word is given to `decode` whole, since a word has no bytes (R10). -/
def decodeTableWord (nbits w : Nat) : Option Instr := (tableWord nbits w).map decode

end Sys2Proof
end

