-- ==== Sys2Proof/Machine/State.lean ====
section
/-! DEFINITION. The state of one core: (PHASE, S, i, j) of 10 section 1, the `READ` in flight, the reset input, and the contents
of the seven channels (R60), with the state after reset (R34, R180, R181). -/

namespace Sys2Proof.Machine

/-- `PHASE`, the 2-bit register with three legal values (R28). `0b11` never occurs, so it has no constructor. -/
inductive Phase where
  /-- No construction has succeeded since reset. -/
  | unkeyed
  /-- The last successful construction was `INIT`. -/
  | gen
  /-- The last successful construction was `AINIT`. -/
  | adp
deriving DecidableEq, Repr

/-- The bits of the register (R28). -/
def Phase.bits : Phase → BitVec 2
  | .unkeyed => 0b00#2
  | .gen => 0b01#2
  | .adp => 0b10#2

/-- The permutation memory `S`: the entries that hold a value, by address, addresses strictly rising. An address that is not
listed holds no value (R34; assumption log 2). -/
abbrev Memory := List Host.Cell

/-- The addresses of a list of cells are strictly rising, above `lo`, and inside `S`. -/
def risingFrom : Nat → List Host.Cell → Bool
  | _, [] => true
  | lo, (a, _) :: m => decide (lo ≤ a) && decide (a < Config.tableSize) && risingFrom (a + 1) m

/-- The canonical form: strictly rising addresses of `S`. An unlisted address has no value, which no entry can equal. -/
def Memory.wf (m : Memory) : Bool := risingFrom 0 m

/-- What the Keystream Generator owns (R2, R20, R23, R24): the permutation memory and the two cursors. -/
structure Generator where
  S : Memory
  i : Byte
  j : Byte
deriving DecidableEq, Repr

/-- The whole state of one core and of the channels at its ports. -/
structure State where
  /-- `PHASE` (R28). -/
  phase : Phase
  /-- `S`, `i`, `j` (R20, R23, R24). -/
  gen : Generator
  /-- The count of a `READ` that has asked the source and still waits for its answer (R78, R111, R190; assumption log 4). -/
  inFlight : Option Count
  /-- The reset input: the reset event is applied at the next step (R180; assumption log 5). -/
  resetLine : Bool
  /-- `CMD`, host to core: the command words not yet taken, the oldest first (R60). -/
  cmd : List Word
  /-- `KEY`, host to core (R60, R66). -/
  key : List Byte
  /-- `RSP`, core to host (R60, R67). -/
  rsp : List Word
  /-- `DOUT`, core to host (R60, R69). -/
  dout : List Byte
  /-- `SCMD`, core to source (R60, R70). -/
  scmd : List Word
  /-- `SRSP`, source to core (R60, R70). -/
  srsp : List Word
  /-- `SDIN`, source to core (R60, R70). -/
  sdin : List Byte
deriving DecidableEq, Repr

/-- Why a run can go wrong. -/
inductive Fault where
  /-- Raised by `READ` (and `ENCRYPT`, `DECRYPT`, and a `READ` in flight) when the source answers `OK` with `COUNT` over the `N`
  asked for: the spec leaves the core's behaviour unspecified and says that a model faults (R118, R156). Safe. -/
  | sourceOverCount
  /-- Raised by a read of an entry of `S` that holds no value (R34, U6). Operations read `S` only after a construction has written
  all of it, so no run from reset raises it. Safe: the model stops where hardware would read some stored byte. -/
  | unwrittenEntry
deriving DecidableEq, Repr

/-- Why an instruction has no meaning in the model. -/
inductive Refusal where
  /-- The instruction of this mnemonic is not modelled: raised by no arm of `exec`, since every row has its meaning. Safe. -/
  | notModelled (mnemonic : String)
deriving DecidableEq, Repr

/-- The state right after reset (R34, R180, R181): unkeyed, no entry of `S` with a value, no command in flight, every channel
empty. The spec gives `i` and `j` no value; the model names 0 (DESIGN CHOICE, unsafe: assumption log 1). -/
def State.reset : State :=
  { phase := .unkeyed
    gen := { S := [], i := 0#8, j := 0#8 }
    inFlight := none
    resetLine := false
    cmd := []
    key := []
    rsp := []
    dout := []
    scmd := []
    srsp := []
    sdin := [] }

end Sys2Proof.Machine
end

