-- ==== Sys2Proof/Machine/Flags.lean ====
section
/-! DEFINITION. The block has no flags (R30): an operation's outcome is the response word, sent once and kept nowhere. This file
holds its fields and status codes (R67, R68) and the words the core generates itself. -/

namespace Sys2Proof.Machine

/-- `STATUS`, bits 31:28 of a response word (R67). -/
def statusField (r : Word) : BitVec 4 := r.extractLsb' 28 4

/-- `INFO`, bits 27:16 of a response word (R67). -/
def infoField (r : Word) : BitVec 12 := r.extractLsb' 16 12

/-- `COUNT`, bits 15:0 of a response word (R67). -/
def countField (r : Word) : Count := r.extractLsb' 0 16

/-- The response word with these fields (R67). -/
def packResponse (status : BitVec 4) (info : BitVec 12) (count : Count) : Word := status ++ info ++ count

/-- `STATUS = OK` (R68). -/
def statusOk : BitVec 4 := 0x0#4

/-- `STATUS = INVALID_KEY` (R68). -/
def statusInvalidKey : BitVec 4 := 0x1#4

/-- `STATUS = SOURCE_ERROR`, the code of a leaf source's own errors; the core never generates it (R68, R152). -/
def statusSourceError : BitVec 4 := 0x2#4

/-- `STATUS = NOT_READY` (R68). -/
def statusNotReady : BitVec 4 := 0x3#4

/-- `STATUS = ILLEGAL` (R68). -/
def statusIllegal : BitVec 4 := 0x4#4

/-- The response of a success that delivers `n` bytes: `0x0000nnnn` (R68). -/
def okWord (n : Count) : Word := packResponse statusOk 0#12 n

/-- The errors the core raises itself (R150). A source's error is not among them: it is the source's word (R152). -/
inductive ErrorKind where
  /-- `InvalidKey`: a construction with `L = 0` (R151). -/
  | invalidKey
  /-- `NotReady`: `NEXT`, `FILL` outside GEN, `READ` outside ADP (R154). -/
  | notReady
  /-- `Illegal`: a reserved command word (R155). -/
  | illegal
deriving DecidableEq, Repr

/-- The status code of an error (R68). -/
def errorStatus : ErrorKind → BitVec 4
  | .invalidKey => statusInvalidKey
  | .notReady => statusNotReady
  | .illegal => statusIllegal

/-- The response word of an error: `INFO` and `COUNT` are zero (R67, R68). -/
def errorWord (e : ErrorKind) : Word := packResponse (errorStatus e) 0#12 0#16

end Sys2Proof.Machine
end

