-- ==== Sys2Proof/Machine/Ops.lean ====
section
/-! DEFINITION. The shared operations: byte arithmetic (R6, R7), the permutation memory (R41, R44) and `swap` (R9), the ends of
the channels (R60), raising an error (R159), and the reset event (R180). -/

namespace Sys2Proof.Machine

/-- Addition of two bytes modulo 256 (R6, R192). -/
def add8 (a b : Byte) : Byte := a + b

/-- Bitwise exclusive-or of two bytes (R7). -/
def xor8 (a b : Byte) : Byte := a ^^^ b

/-- What an address that memory does not list reads as: no value, since `S` holds none before a construction (R34, U6;
assumption log 2). -/
def unlisted : Option Byte := none

/-- The value at an address of a list of cells. -/
def readCell : List Host.Cell → Nat → Option Byte
  | [], _ => unlisted
  | (a, v) :: m, x => if a = x then some v else readCell m x

/-- The cells with the value `v` at address `x`: the cell is replaced, or put in its place in rising order. -/
def writeCell : List Host.Cell → Nat → Byte → List Host.Cell
  | [], x, v => [(x, v)]
  | (a, w) :: m, x, v =>
    if a = x then (x, v) :: m
    else if x < a then (x, v) :: (a, w) :: m
    else (a, w) :: writeCell m x v

/-- `S[a]`, that is `MemRead(a, 1)` (R41): none where the entry holds no value. -/
def readS (m : Memory) (a : Index) : Option Byte := readCell m a.toNat

/-- `S[a] <- v`, that is `MemWrite(a, 1, v)` (R41, R44). -/
def writeS (m : Memory) (a : Index) (v : Byte) : Memory := writeCell m a.toNat v

/-- `swap(S, a, b)`: both reads before either write (R9). None where an entry holds no value. -/
def swap (m : Memory) (a b : Index) : Option Memory :=
  match readS m a, readS m b with
  | some x, some y => some (writeS (writeS m a y) b x)
  | _, _ => none

/-- A response word is appended to `RSP` (R67). -/
def respond (w : Word) (s : State) : State := { s with rsp := s.rsp ++ [w] }

/-- Result bytes are appended to `DOUT`, position 0 first (R69). -/
def emit (bytes : List Byte) (s : State) : State := { s with dout := s.dout ++ bytes }

/-- A command word is appended to `SCMD` (R70). -/
def sendDown (w : Word) (s : State) : State := { s with scmd := s.scmd ++ [w] }

/-- The effect of an error, the block's counterpart of taking an exception (R159): exactly one response word, the error's, and
nothing else changes. There is no return from it: the core takes the next command as after a success (R160). -/
def raise (e : ErrorKind) (s : State) : Host.Outcome State Fault Refusal := .next (respond (errorWord e) s)

/-- A command that cannot be issued yet stays at the head of `CMD` and has no effect (R66, R78, R188). -/
def notIssued (w : Word) (s : State) : State := { s with cmd := w :: s.cmd }

/-- The reset event: unkeyed, `S` without values, the command in flight abandoned without a response, all seven channels emptied
(R180). The reset input is a pulse: it is not asserted afterwards (assumption log 5). -/
def resetEvent (_s : State) : State := State.reset

end Sys2Proof.Machine
end

