-- ==== Sys2Proof/Machine/Operands.lean ====
section
/-! DEFINITION. The operand forms (R76): the key operand from `KEY` and its indexing (R8, R52, R66), and the data operand of a
`READ` from the source's answer (R70, R76). -/

namespace Sys2Proof.Machine

/-- `key[p mod L]`, `L` the length of the key (R8, R52). None only for the empty key, which no schedule is given (R90). -/
def keyByte (key : List Byte) (p : Nat) : Option Byte := key[p % key.length]?

/-- The `L` key beats of a construction, `key[0]` first, and the state without them. None while fewer than `L` wait on `KEY`: the
command is then not issued (R66, R78, R188). -/
def takeKey (l : Nat) (s : State) : Option (List Byte × State) :=
  if l ≤ s.key.length then some (s.key.take l, { s with key := s.key.drop l }) else none

/-- The `n` data beats of an answer, and the state without them. None while fewer than `n` wait on `SDIN` (R70, R118). -/
def takeData (n : Nat) (s : State) : Option (List Byte × State) :=
  if n ≤ s.sdin.length then some (s.sdin.take n, { s with sdin := s.sdin.drop n }) else none

/-- What a source's answer to `READ n` says (R111, R112). -/
inductive Answer where
  /-- A status that is not `OK`: an error word, forwarded unchanged (R113). -/
  | error
  /-- `OK` with a count of at most `n` (R112). -/
  | data (count : Nat)
  /-- `OK` with a count over `n`: the source breaks its contract (R118). -/
  | overCount
deriving DecidableEq, Repr

/-- The reading of a response word as the answer to `READ n`: every status but `OK` is an error, the unassigned ones too
(R68, R113, U13). -/
def answerOf (n : Count) (r : Word) : Answer :=
  if statusField r ≠ statusOk then .error
  else if (countField r).toNat ≤ n.toNat then .data (countField r).toNat
  else .overCount

end Sys2Proof.Machine
end

