-- ==== Sys2Proof/Machine/KeystreamGenerator.lean ====
section
/-! DEFINITION. The Keystream Generator (40): the key schedule and construction (R90), the PRGA step (R92), and the meanings of
`INIT`, `NEXT` and `FILL` (R90, R92, R93). -/

namespace Sys2Proof.Machine

/-- Step 1 of the key schedule: all 256 entries, `S[p] = p` (R90). -/
def identityTable : Memory := (List.range Config.tableSize).map fun p => (p, BitVec.ofNat 8 p)

/-- One iteration of step 3 at position `p`: the transient cursor takes `S[p]` and `key[p mod L]`, then `S[p]` and `S[jt]` are
exchanged (R90, R91). -/
def scheduleStep (key : List Byte) (p : Nat) (m : Memory) (jt : Byte) : Option (Memory × Byte) :=
  match readS m (BitVec.ofNat 8 p), keyByte key p with
  | some x, some k =>
    let jt' := add8 (add8 jt x) k
    match swap m (BitVec.ofNat 8 p) jt' with
    | some m' => some (m', jt')
    | none => none
  | _, _ => none

/-- Step 3 over the positions that are left, in order; the transient cursor is dropped at the end (R26, R90). -/
def scheduleFrom (key : List Byte) : List Nat → Memory → Byte → Option Memory
  | [], m, _ => some m
  | p :: ps, m, jt =>
    match scheduleStep key p m jt with
    | some (m', jt') => scheduleFrom key ps m' jt'
    | none => none

/-- Steps 1 to 3 of the construction, for a key of any positive length (R90, R97). -/
def keySchedule (key : List Byte) : Option Memory :=
  scheduleFrom key (List.range Config.tableSize) identityTable 0#8

/-- Steps 1 to 4 of the construction: the scheduled table, and both cursors at 0 (R90). -/
def constructed (key : List Byte) : Option Generator :=
  match keySchedule key with
  | some m => some { S := m, i := 0#8, j := 0#8 }
  | none => none

/-- A construction that ends in phase `p`, whose command word is `w` and whose key length is `l`: what `INIT` and `AINIT` share
(R90, R110, R151). A length over 256 is no legal word (R71; assumption log 12); a length of 0 is `InvalidKey` before any write; with fewer than `l`
beats on `KEY` the command is not issued. -/
def construct (p : Phase) (w : Word) (l : KeyLen) (s : State) : Host.Outcome State Fault Refusal :=
  if Config.keyMax < l.toNat then raise .illegal s
  else if l.toNat = 0 then raise .invalidKey s
  else
    match takeKey l.toNat s with
    | none => .next (notIssued w s)
    | some (key, s') =>
      match constructed key with
      | some g => .next (respond (okWord 0#16) { s' with phase := p, gen := g })
      | none => .fault .unwrittenEntry

/-- One PRGA step: the byte produced and the generator after it (R92). The five steps in order; both sums of entries and the
output are read after the swap (R191). -/
def prga (g : Generator) : Option (Byte × Generator) :=
  let i := add8 g.i 1#8
  match readS g.S i with
  | none => none
  | some x =>
    let j := add8 g.j x
    match swap g.S i j with
    | none => none
    | some m =>
      match readS m i, readS m j with
      | some y, some z =>
        match readS m (add8 y z) with
        | some out => some (out, { S := m, i := i, j := j })
        | none => none
      | _, _ => none

/-- `n` PRGA steps: the bytes in the order produced and the generator after them (R93, R94). -/
def prgaRun : Nat → Generator → Option (List Byte × Generator)
  | 0, g => some ([], g)
  | n + 1, g =>
    match prga g with
    | none => none
    | some (z, g') =>
      match prgaRun n g' with
      | some (zs, g'') => some (z :: zs, g'')
      | none => none

/-- The two entries of `S` that a PRGA step exchanges: the new `i` and the new `j` (R92). None where `S[i]` holds no value. -/
def swapAddresses (g : Generator) : Option (Index × Index) :=
  match readS g.S (add8 g.i 1#8) with
  | some x => some (add8 g.i 1#8, add8 g.j x)
  | none => none

/-- The entries that `n` PRGA steps exchange, in order (R92, R93). -/
def storedBy : Nat → Generator → List Index
  | 0, _ => []
  | n + 1, g =>
    match swapAddresses g, prga g with
    | some (a, b), some (_, g') => a :: b :: storedBy n g'
    | _, _ => []

/-- `n` bytes produced and delivered with the response `0x0000nnnn` (R69, R93). -/
def produce (n : Count) (s : State) : Host.Outcome State Fault Refusal :=
  match prgaRun n.toNat s.gen with
  | some (zs, g) => .next (respond (okWord n) (emit zs { s with gen := g }))
  | none => .fault .unwrittenEntry

/-- An operation of the raw generator: accepted in phase GEN only (R154). -/
def inGen (s : State) (accepted : Host.Outcome State Fault Refusal) : Host.Outcome State Fault Refusal :=
  if s.phase = .gen then accepted else raise .notReady s

/-- `INIT` (R90). -/
def execInit (l : KeyLen) (s : State) : Host.Outcome State Fault Refusal := construct .gen (initWord l) l s

/-- `NEXT` (R92): one PRGA step, the response `0x00000001` and the byte. -/
def execNext (s : State) : Host.Outcome State Fault Refusal := inGen s (produce 1#16 s)

/-- `FILL` (R93). -/
def execFill (n : Count) (s : State) : Host.Outcome State Fault Refusal := inGen s (produce n s)

end Sys2Proof.Machine
end

