-- ==== Sys2Proof/Machine/StreamAdapter.lean ====
section
/-! DEFINITION. The Streaming Cipher Adapter (41): its construction (R110), the request to the source, the source's answer, and
the XOR in place (R111 to R115, R118), with the meanings of `AINIT` and `READ`. -/

namespace Sys2Proof.Machine

/-- Step 3 of `READ`: each byte, in increasing position, XORed with one fresh keystream byte (R111). -/
def xorRun : List Byte → Generator → Option (List Byte × Generator)
  | [], g => some ([], g)
  | d :: ds, g =>
    match prga g with
    | none => none
    | some (z, g') =>
      match xorRun ds g' with
      | some (es, g'') => some (xor8 d z :: es, g'')
      | none => none

/-- The core waits in a `READ n` whose request has gone out: it accepts nothing else until the answer is complete (R112, R190). -/
def waitFor (n : Count) (s : State) : Host.Outcome State Fault Refusal := .next { s with inFlight := some n }

/-- Steps 3 and 4 of `READ` for an answer word `r` of `OK` and its data, both already taken from the channels: as many keystream
bytes as there are data bytes, and `r` forwarded whole (R111, D21). -/
def transform (data : List Byte) (r : Word) (s : State) : Host.Outcome State Fault Refusal :=
  match xorRun data s.gen with
  | some (out, g) => .next (respond r (emit out { s with gen := g, inFlight := none }))
  | none => .fault .unwrittenEntry

/-- A `READ n` from the point where its request has been sent (R111): the source's answer is taken when it is there, whole; an
error word is forwarded unchanged and takes no beat (R113); with too few beats the core goes on waiting (R118). -/
def takeAnswer (n : Count) (s : State) : Host.Outcome State Fault Refusal :=
  match s.srsp with
  | [] => waitFor n s
  | r :: rest =>
    match answerOf n r with
    | .error => .next (respond r { s with srsp := rest, inFlight := none })
    | .overCount => .fault .sourceOverCount
    | .data count =>
      match takeData count { s with srsp := rest } with
      | some (data, s') => transform data r s'
      | none => waitFor n s

/-- `READ n`, under any of its spellings: in phase ADP the request is sent, also when `n` is 0, and then the answer is taken
(R111, D23); elsewhere `NotReady` and the source is not asked (R154, R158). -/
def readSource (n : Count) (s : State) : Host.Outcome State Fault Refusal :=
  if s.phase = .adp then takeAnswer n (sendDown (readWord n) s) else raise .notReady s

/-- A `READ` in flight goes on: no second request (R111, R113, R115). -/
def resumeRead (n : Count) (s : State) : Host.Outcome State Fault Refusal := takeAnswer n s

/-- `AINIT` (R110). -/
def execAinit (l : KeyLen) (s : State) : Host.Outcome State Fault Refusal := construct .adp (ainitWord l) l s

/-- `READ` (R111). -/
def execRead (n : Count) (s : State) : Host.Outcome State Fault Refusal := readSource n s

end Sys2Proof.Machine
end

