-- ==== Sys2Proof/Machine/Pseudo.lean ====
section
/-! DEFINITION. The pseudo-operations (R75): `ENCRYPT` and `DECRYPT` are spellings of `READ`; `KEYSTREAM` is a sequence of
`FILL`s. No command word decodes to one; each means what its expansion does. -/

namespace Sys2Proof.Machine

/-- `FILL`s of these counts, one after the other. -/
def fillAll : List Count → State → Host.Outcome State Fault Refusal
  | [], s => .next s
  | n :: ns, s =>
    match execFill n s with
    | .next s' => fillAll ns s'
    | .fault f => .fault f
    | .refused r => .refused r

/-- `ENCRYPT n` (R75, R111, R116). -/
def execEncrypt (n : Count) (s : State) : Host.Outcome State Fault Refusal := readSource n s

/-- `DECRYPT n` (R75, R111, R116). -/
def execDecrypt (n : Count) (s : State) : Host.Outcome State Fault Refusal := readSource n s

/-- `KEYSTREAM n` (R75, R93). -/
def execKeystream (n : Nat) (s : State) : Host.Outcome State Fault Refusal := fillAll (keystreamCounts n) s

end Sys2Proof.Machine
end

