-- ==== Sys2Proof/Machine/Reserved.lean ====
section
/-! DEFINITION. The reserved command words (R71): each is answered `ILLEGAL` and has no effect, in every phase (R155, R158). -/

namespace Sys2Proof.Machine

/-- Row RESERVED.OP0 (R71, R155). -/
def execReservedOp0 (s : State) : Host.Outcome State Fault Refusal := raise .illegal s

/-- Row RESERVED.OP6_7 (R71, R155). -/
def execReservedOp6_7 (s : State) : Host.Outcome State Fault Refusal := raise .illegal s

/-- Row RESERVED.OP8_F (R71, R155). -/
def execReservedOp8_F (s : State) : Host.Outcome State Fault Refusal := raise .illegal s

/-- Row RESERVED.RSV (R71, R155). -/
def execReservedRsv (s : State) : Host.Outcome State Fault Refusal := raise .illegal s

/-- Row RESERVED.KEYLEN.INIT: no `KEY` beat is taken (R71, R155). -/
def execReservedKeylenInit (s : State) : Host.Outcome State Fault Refusal := raise .illegal s

/-- Row RESERVED.KEYLEN.AINIT: no `KEY` beat is taken (R71, R155). -/
def execReservedKeylenAinit (s : State) : Host.Outcome State Fault Refusal := raise .illegal s

/-- Row RESERVED.NEXTARG (R71, R155). -/
def execReservedNextarg (s : State) : Host.Outcome State Fault Refusal := raise .illegal s

end Sys2Proof.Machine
end

