-- ==== Sys2Proof/Machine/Dispatch.lean ====
section
/-! DEFINITION. The meaning of every instruction: one arm per row of the opcode table. -/

namespace Sys2Proof.Machine

def exec (i : Instr) (s : State) : Host.Outcome State Fault Refusal :=
  match i with
  | .init l => Sys2Proof.Machine.execInit l s
  | .ainit l => Sys2Proof.Machine.execAinit l s
  | .next => Sys2Proof.Machine.execNext s
  | .fill n => Sys2Proof.Machine.execFill n s
  | .read n => Sys2Proof.Machine.execRead n s
  | .encrypt n => Sys2Proof.Machine.execEncrypt n s
  | .decrypt n => Sys2Proof.Machine.execDecrypt n s
  | .keystream n => Sys2Proof.Machine.execKeystream n s
  | .reservedOp0 _ => Sys2Proof.Machine.execReservedOp0 s
  | .reservedOp6_7 _ _ => Sys2Proof.Machine.execReservedOp6_7 s
  | .reservedOp8_F _ _ => Sys2Proof.Machine.execReservedOp8_F s
  | .reservedRsv _ _ _ => Sys2Proof.Machine.execReservedRsv s
  | .reservedKeylenInit _ => Sys2Proof.Machine.execReservedKeylenInit s
  | .reservedKeylenAinit _ => Sys2Proof.Machine.execReservedKeylenAinit s
  | .reservedNextarg _ => Sys2Proof.Machine.execReservedNextarg s

end Sys2Proof.Machine
end

