-- ==== Sys2Proof/Machine/Issue.lean ====
section
/-! DEFINITION. The taking of a command word from `CMD` (R29, R78), and the placing of one there for the host's probes. -/

namespace Sys2Proof.Machine

/-- The command word at the head of `CMD`, and the state without it; none while the channel is empty (R29, R78). -/
def takeCommand (s : State) : Option (Word × State) :=
  match s.cmd with
  | [] => none
  | w :: rest => some (w, { s with cmd := rest })

/-- How many `KEY` beats have to wait on `KEY` before a command word is issued (R66, R73, R78). -/
def keyBeatsOf (w : Word) : Nat :=
  match decode w with
  | .init l => l.toNat
  | .ainit l => l.toNat
  | .next | .fill _ | .read _ | .encrypt _ | .decrypt _ | .keystream _ => 0
  | .reservedOp0 _ | .reservedOp6_7 _ _ | .reservedOp8_F _ _ | .reservedRsv _ _ _ => 0
  | .reservedKeylenInit _ | .reservedKeylenAinit _ | .reservedNextarg _ => 0

/-- The state in which the next step issues the command word `w`: at the head of `CMD`, no `READ` in flight, the reset input not
asserted, and `KEY` filled up with zero bytes to the beats `w` needs (assumption log 11). -/
def placeCommand (w : Word) (s : State) : State :=
  { s with
    cmd := w :: s.cmd
    inFlight := none
    resetLine := false
    key := s.key ++ List.replicate (keyBeatsOf w - s.key.length) 0#8 }

end Sys2Proof.Machine
end

