-- ==== Sys2Proof/Machine/Step.lean ====
section
/-! DEFINITION. One step of the core: the reset event when its input is asserted (R180); else the `READ` in flight goes on (R190);
else the next command word is taken, decoded and executed (R77, R78); with none on `CMD` the core is idle and holds its state (R166). -/

namespace Sys2Proof.Machine

/-- One step. -/
def step (s : State) : Host.Outcome State Fault Refusal :=
  if s.resetLine then .next (resetEvent s)
  else
    match s.inFlight with
    | some n => resumeRead n s
    | none =>
      match takeCommand s with
      | some (w, s') => exec (decode w) s'
      | none => .next s

/-- `s` with a table word where the next step takes its command (see `placeCommand`). -/
def State.withFetchWord (s : State) (nbits w : Nat) : State :=
  match tableWord nbits w with
  | some word => placeCommand word s
  | none => s

end Sys2Proof.Machine
end

