-- ==== Sys2Proof/Machine/Assembler.lean ====
section
/-! DEFINITION. The host's side of the upstream port: the text form of operations (R74, R75, R12), the words and key beats a line
stands for, and issuing a line, that is putting them on `CMD` and `KEY` (R66, R188). How a line
is split into words is the model's reading of R74 (assumption log 13). -/

namespace Sys2Proof.Machine

/-- One line of a program (R74, R75). -/
inductive Line where
  | init (key : List Byte)
  | ainit (key : List Byte)
  | next
  | fill (n : Count)
  | read (n : Count)
  | encrypt (n : Count)
  | decrypt (n : Count)
  | keystream (n : Nat)
  | word (w : Word)
deriving DecidableEq, Repr

/-- The command words of a line, in order (R74, R75). -/
def lineWords : Line → List Word
  | .init key => [BitVec.ofNat 32 (0x10000000 + key.length)]
  | .ainit key => [BitVec.ofNat 32 (0x20000000 + key.length)]
  | .next => [0x30000000#32]
  | .fill n => encode (.fill n)
  | .read n => encode (.read n)
  | .encrypt n => encode (.encrypt n)
  | .decrypt n => encode (.decrypt n)
  | .keystream n => encode (.keystream n)
  | .word w => [w]

/-- The bytes the host puts on `KEY` for a line (R74). -/
def lineKey : Line → List Byte
  | .init key => key
  | .ainit key => key
  | .next | .fill _ | .read _ | .encrypt _ | .decrypt _ | .keystream _ | .word _ => []

/-- The host issues a line: its words on `CMD`, its key bytes on `KEY` (R66, R74). -/
def issueLine (l : Line) (s : State) : State :=
  { s with cmd := s.cmd ++ lineWords l, key := s.key ++ lineKey l }

/-- The host issues the lines of a program in order (R74). -/
def issueProgram (ls : List Line) (s : State) : State := ls.foldl (fun t l => issueLine l t) s

/-- The ASCII codes of a text, one byte a character, no terminator (R12). -/
def ascii (text : List Char) : List Byte := text.map fun c => BitVec.ofNat 8 c.toNat

/-- The value of a hexadecimal digit. -/
def digitValue (c : Char) : Option Nat :=
  let k := c.toNat
  if 48 ≤ k ∧ k ≤ 57 then some (k - 48)
  else if 65 ≤ k ∧ k ≤ 70 then some (k - 55)
  else if 97 ≤ k ∧ k ≤ 102 then some (k - 87)
  else none

/-- The number a text of digits in a base stands for, after the value read so far. -/
def digits (base : Nat) : List Char → Nat → Option Nat
  | [], acc => some acc
  | c :: cs, acc =>
    match digitValue c with
    | some d => if d < base then digits base cs (acc * base + d) else none
    | none => none

/-- A number: hexadecimal after `0x`, else decimal (R74). -/
def number (text : List Char) : Option Nat :=
  match text with
  | [] => none
  | '0' :: 'x' :: [] => none
  | '0' :: 'x' :: cs => digits 16 cs 0
  | cs => digits 10 cs 0

/-- Hex digits in pairs, the high digit first (R11). -/
def hexBytes : List Char → Option (List Byte)
  | [] => some []
  | [_] => none
  | a :: b :: cs =>
    match digitValue a, digitValue b, hexBytes cs with
    | some x, some y, some bs => some (BitVec.ofNat 8 (16 * x + y) :: bs)
    | _, _, _ => none

/-- A space or a tab. -/
def isBlank (c : Char) : Bool := c.toNat == 32 || c.toNat == 9

/-- Nothing but blanks and a comment is left (R74). -/
def lineEnds (text : List Char) : Bool :=
  match text.dropWhile isBlank with
  | [] => true
  | c :: _ => c == ';'

/-- The characters up to a blank or a comment, and the rest. -/
def token (text : List Char) : List Char × List Char :=
  (text.takeWhile fun c => !isBlank c && c != ';', text.dropWhile fun c => !isBlank c && c != ';')

/-- A key operand: text in double quotes, or `x` and hex bytes, `x` alone the empty key (R74). -/
def keyOperand (text : List Char) : Option (List Byte) :=
  match text with
  | [] => none
  | c :: cs =>
    if c.toNat = 34 then
      match cs.dropWhile fun d => d.toNat != 34 with
      | _ :: after => if lineEnds after then some (ascii (cs.takeWhile fun d => d.toNat != 34)) else none
      | [] => none
    else if c = 'x' then
      if lineEnds (token cs).2 then hexBytes (token cs).1 else none
    else none

/-- A number that ends its line. -/
def numberOperand (text : List Char) : Option Nat :=
  if lineEnds (token text).2 then number (token text).1 else none

/-- A count of `FILL`, `READ`, `ENCRYPT` or `DECRYPT`: 0 to 65535 (R74). -/
def countOperand (text : List Char) : Option Count :=
  match numberOperand text with
  | some n => if n ≤ Config.countMax then some (BitVec.ofNat 16 n) else none
  | none => none

/-- The literal of `.word`: a number of 32 bits (R74). -/
def wordOperand (text : List Char) : Option Word :=
  match numberOperand text with
  | some n => if n < 2 ^ 32 then some (BitVec.ofNat 32 n) else none
  | none => none

/-- One line of text with an operation on it; none where it does not follow R74. A line of blanks or of a comment alone has no
operation, so it gives none here too; `parseProgram` passes over it before this is asked. R74 does not say how such a line is read,
nor how blanks, digits and capitals are: DESIGN CHOICE, safe (assumption log 13). -/
def parseLine (text : List Char) : Option Line :=
  let body := text.dropWhile isBlank
  let name := (token body).1
  let rest := (token body).2.dropWhile isBlank
  if name = ['I', 'N', 'I', 'T'] then (keyOperand rest).map .init
  else if name = ['A', 'I', 'N', 'I', 'T'] then (keyOperand rest).map .ainit
  else if name = ['N', 'E', 'X', 'T'] then if lineEnds rest then some .next else none
  else if name = ['F', 'I', 'L', 'L'] then (countOperand rest).map .fill
  else if name = ['R', 'E', 'A', 'D'] then (countOperand rest).map .read
  else if name = ['E', 'N', 'C', 'R', 'Y', 'P', 'T'] then (countOperand rest).map .encrypt
  else if name = ['D', 'E', 'C', 'R', 'Y', 'P', 'T'] then (countOperand rest).map .decrypt
  else if name = ['K', 'E', 'Y', 'S', 'T', 'R', 'E', 'A', 'M'] then (numberOperand rest).map .keystream
  else if name = ['.', 'w', 'o', 'r', 'd'] then (wordOperand rest).map .word
  else none

/-- The lines of a program in order (R74); none where a line does not follow R74. A line with only blanks or a comment stands for
no operation and is passed over, as the comment lines of program P3 of spec/95 need: DESIGN CHOICE, safe (assumption log 13). -/
def parseProgram : List (List Char) → Option (List Line)
  | [] => some []
  | text :: rest =>
    if lineEnds text then parseProgram rest
    else
      match parseLine text, parseProgram rest with
      | some l, some ls => some (l :: ls)
      | _, _ => none

end Sys2Proof.Machine
end

