-- ==== Sys2Proof/Machine/Wiring.lean ====
section
/-! DEFINITION. The downstream port's other side: a source's answer (R70, R112), and two cores wired one over the other, core B's
`SCMD`, `SRSP`, `SDIN` to core A's `CMD`, `RSP`, `DOUT` (R117). -/

namespace Sys2Proof.Machine

/-- A source answers: its word on `SRSP`, its bytes on `SDIN` (R70, R112). -/
def sourceAnswers (r : Word) (bytes : List Byte) (s : State) : State :=
  { s with srsp := s.srsp ++ [r], sdin := s.sdin ++ bytes }

/-- The words core B has sent downstream arrive on core A's `CMD`: B, then A (R117). -/
def relayRequests (b a : State) : State × State :=
  ({ b with scmd := [] }, { a with cmd := a.cmd ++ b.scmd })

/-- What core A has answered arrives on core B's `SRSP` and `SDIN`, unchanged: B, then A (R113, R117). -/
def relayAnswers (b a : State) : State × State :=
  ({ b with srsp := b.srsp ++ a.rsp, sdin := b.sdin ++ a.dout }, { a with rsp := [], dout := [] })

end Sys2Proof.Machine
end

