-- ==== Sys2Proof/Safety.lean ====
section
/-! DEFINITION. The terms of the claims: the reference generator over total tables (R90, R92 as the spec writes them), what it
means that the machine's generator represents one, the invariant of the machine, the reserved words by their bits (R71), and the
scripts of several reads and of two cores (R132, R133). -/

namespace Sys2Proof.Machine

/-! ### The reference generator -/

/-- A table of 256 bytes, every entry with a value. -/
abbrev Table := Index → Byte

/-- The exchange of two entries (R9). -/
def Table.swap (t : Table) (a b : Index) : Table := fun x => if x = a then t b else if x = b then t a else t x

/-- `key[p mod L]` (R8, R52); only used with a key that is not empty. -/
def refKeyByte (key : List Byte) (p : Nat) : Byte := key.getD (p % key.length) 0#8

/-- The table and the transient cursor `jt` after `p` iterations of step 3 (R90, R91). -/
def refSchedule (key : List Byte) : Nat → Table × Byte
  | 0 => (fun a => a, 0#8)
  | p + 1 =>
    let t := (refSchedule key p).1
    let jt := (refSchedule key p).2 + t (BitVec.ofNat 8 p) + refKeyByte key p
    (t.swap (BitVec.ofNat 8 p) jt, jt)

/-- A generator whose table is total. -/
structure RefGen where
  table : Table
  i : Byte
  j : Byte

/-- The generator a construction leaves: the scheduled table, both cursors 0 (R90 steps 1 to 4). -/
def refConstructed (key : List Byte) : RefGen := { table := (refSchedule key 256).1, i := 0#8, j := 0#8 }

/-- One PRGA step as R92 writes it: the byte, and the generator after it. -/
def refStep (r : RefGen) : Byte × RefGen :=
  let i := r.i + 1#8
  let j := r.j + r.table i
  let t := r.table.swap i j
  (t (t i + t j), { table := t, i := i, j := j })

/-- The generator after `n` PRGA steps. -/
def refAfter : Nat → RefGen → RefGen
  | 0, r => r
  | n + 1, r => refAfter n (refStep r).2

/-- The bytes of `n` PRGA steps, in order (R94). -/
def refBytes : Nat → RefGen → List Byte
  | 0, _ => []
  | n + 1, r => (refStep r).1 :: refBytes n (refStep r).2

/-- Data XORed with the keystream bytes from the generator on, position by position (R111). -/
def refCipher (data : List Byte) (r : RefGen) : List Byte := List.zipWith (fun d z => d ^^^ z) data (refBytes data.length r)

/-! ### The machine's generator against the reference -/

/-- Every entry of the memory holds the table's value. -/
def Holds (m : Memory) (t : Table) : Prop := ∀ a : Index, readS m a = some (t a)

/-- The machine's generator is the reference generator. -/
def Represents (g : Generator) (r : RefGen) : Prop := Holds g.S r.table ∧ g.i = r.i ∧ g.j = r.j

/-- Every entry of `S` holds a value. -/
def Full (m : Memory) : Prop := ∀ a : Index, ∃ v, readS m a = some v

/-- `S` contains each value 0 to 255 exactly once (R21, R131). -/
def IsPermutation (m : Memory) : Prop :=
  Full m ∧ ∀ v : Byte, ∃ a : Index, readS m a = some v ∧ ∀ b : Index, readS m b = some v → b = a

/-- The invariant of the machine: memory is in canonical form; while unkeyed `S` holds no value (R34), afterwards it is a
permutation (R21); and a `READ` is in flight only in phase ADP (R111, R154). -/
def Inv (s : State) : Prop :=
  s.gen.S.wf = true ∧
  (s.phase = .unkeyed → s.gen.S = []) ∧
  (s.phase ≠ .unkeyed → IsPermutation s.gen.S) ∧
  (s.inFlight ≠ none → s.phase = .adp)

/-- The next step takes a command word: the reset input is not asserted and no `READ` is in flight (R78, R180, R190). -/
def Ready (s : State) : Prop := s.resetLine = false ∧ s.inFlight = none

/-- The answer to a `READ n` is not there whole: no word on `SRSP`, or fewer beats on `SDIN` than an `OK` word that keeps the
contract counts (R112, R118, R190). -/
def AnswerIncomplete (n : Count) (s : State) : Prop :=
  s.srsp = [] ∨ ∃ r rest, s.srsp = r :: rest ∧ statusField r = 0x0#4 ∧ (countField r).toNat ≤ n.toNat ∧
    s.sdin.length < (countField r).toNat

/-! ### Command words by their bits -/

/-- `OP` as a number (R61). -/
def opNumber (w : Word) : Nat := w.toNat / 2 ^ 28

/-- `RSV` as a number (R61). -/
def rsvNumber (w : Word) : Nat := w.toNat / 2 ^ 16 % 2 ^ 12

/-- `ARG` as a number (R61). -/
def argNumber (w : Word) : Nat := w.toNat % 2 ^ 16

/-- The reserved words, as R71 lists them: `ARG[15:9]` not zero or `L = ARG[8:0]` over 256 for the constructions. -/
def isReservedWord (w : Word) : Bool :=
  decide (opNumber w = 0 ∨ 6 ≤ opNumber w ∨ rsvNumber w ≠ 0 ∨
    ((opNumber w = 1 ∨ opNumber w = 2) ∧ (argNumber w / 2 ^ 9 ≠ 0 ∨ 256 < argNumber w % 2 ^ 9)) ∨
    (opNumber w = 3 ∧ argNumber w ≠ 0))

/-- The word `OP`, `RSV = 0`, `ARG`, by its value (R61, R74). -/
def wordOf (op arg : Nat) : Word := BitVec.ofNat 32 (op * 2 ^ 28 + arg)

/-! ### Several operations -/

/-- `NEXT`, `n` times. -/
def nextTimes : Nat → State → Host.Outcome State Fault Refusal
  | 0, s => .next s
  | n + 1, s =>
    match exec .next s with
    | .next s' => nextTimes n s'
    | .fault f => .fault f
    | .refused r => .refused r

/-- One `READ` and what its source answers: the buffer length asked for, the answer word, the data beats. -/
structure ReadStep where
  n : Count
  answer : Word
  data : List Byte
deriving DecidableEq, Repr

/-- The source keeps its contract: `OK` with as many beats as its `COUNT`, at most `n`, or an error word and no beat (R112). -/
def ReadStep.kept (q : ReadStep) : Prop :=
  (statusField q.answer = statusOk → (countField q.answer).toNat = q.data.length ∧ q.data.length ≤ q.n.toNat) ∧
  (statusField q.answer ≠ statusOk → q.data = [])

/-- `READ`s one after the other, each over the answer its source gives (R133). -/
def readScript : List ReadStep → State → Host.Outcome State Fault Refusal
  | [], s => .next s
  | q :: qs, s =>
    match exec (.read q.n) (sourceAnswers q.answer q.data s) with
    | .next s' => readScript qs s'
    | .fault f => .fault f
    | .refused r => .refused r

/-- The bytes a source delivers over a script, in order. -/
def scriptData (qs : List ReadStep) : List Byte := (qs.map fun q => q.data).flatten

/-- One `READ n` of a core B over a core A over a source that answers `q` (R117): B sends its request, A takes it, the source
answers A, A answers B, B takes the answer. The result is B, then A. -/
def readThrough (q : ReadStep) (b a : State) : Host.Outcome (State × State) Fault Refusal :=
  match exec (.read q.n) b with
  | .next b1 =>
    match step (sourceAnswers q.answer q.data (relayRequests b1 a).2) with
    | .next a1 =>
      match step (relayAnswers (relayRequests b1 a).1 a1).1 with
      | .next b2 => .next (b2, (relayAnswers (relayRequests b1 a).1 a1).2)
      | .fault f => .fault f
      | .refused r => .refused r
    | .fault f => .fault f
    | .refused r => .refused r
  | .fault f => .fault f
  | .refused r => .refused r

/-- A script of `READ`s of B over A. -/
def pairScript : List ReadStep → State → State → Host.Outcome (State × State) Fault Refusal
  | [], b, a => .next (b, a)
  | q :: qs, b, a =>
    match readThrough q b a with
    | .next (b', a') => pairScript qs b' a'
    | .fault f => .fault f
    | .refused r => .refused r

/-- A core in phase ADP with nothing under way on either port but what it has sent upstream. -/
def AdapterAtRest (s : State) : Prop :=
  s.phase = .adp ∧ Ready s ∧ s.cmd = [] ∧ s.scmd = [] ∧ s.srsp = [] ∧ s.sdin = []

end Sys2Proof.Machine
end

