-- ==== Sys2Proof/Certificates/Slice0/Obligations.lean ====
section
/-! DEFINITION. The statements for the provers, in the order of the spec's files: encoding (30), constructions (40, 41), the raw
generator (40), the adapter (41, 42), errors (60), the whole machine (10, 20, 60, 70), and the frames. -/

open Sys2Proof Sys2Proof.Machine

/-! ### Encoding (30) -/

/-- R61 to R65, R71, R75: the words of a well-formed instruction decode to it, of a pseudo-operation to its expansion. -/
def Obligations.DecodeOfEncodeIsExpansion : Prop :=
  ∀ i : Instr, i.wellFormed = true → (encode i).map decode = expand i

/-- R77, R73: every word is the one word of the instruction it decodes to, which is well formed and no pseudo-operation. -/
def Obligations.EncodeOfDecodeIsTheWord : Prop :=
  ∀ w : Word, encode (decode w) = [w] ∧ (decode w).wellFormed = true ∧ (decode w).isPseudo = false

/-- R77: decode by the fields as numbers, everything else reserved; two words never decode alike, and every legal operation has
exactly one word. -/
def Obligations.DecodeFollowsTheFields : Prop :=
  (∀ w : Word,
    (rsvNumber w ≠ 0 → (decode w).isReserved = true) ∧
    (rsvNumber w = 0 → opNumber w = 1 → argNumber w ≤ 256 → decode w = .init (BitVec.ofNat 9 (argNumber w))) ∧
    (rsvNumber w = 0 → opNumber w = 2 → argNumber w ≤ 256 → decode w = .ainit (BitVec.ofNat 9 (argNumber w))) ∧
    (rsvNumber w = 0 → opNumber w = 3 → argNumber w = 0 → decode w = .next) ∧
    (rsvNumber w = 0 → opNumber w = 4 → decode w = .fill (BitVec.ofNat 16 (argNumber w))) ∧
    (rsvNumber w = 0 → opNumber w = 5 → decode w = .read (BitVec.ofNat 16 (argNumber w))) ∧
    (¬(opNumber w = 1 ∧ argNumber w ≤ 256) → ¬(opNumber w = 2 ∧ argNumber w ≤ 256) →
      ¬(opNumber w = 3 ∧ argNumber w = 0) → opNumber w ≠ 4 → opNumber w ≠ 5 → (decode w).isReserved = true)) ∧
  (∀ w w' : Word, decode w = decode w' → w = w') ∧
  (∀ i : Instr, i.wellFormed = true → i.isPseudo = false → i.isReserved = false →
    ∃ w : Word, decode w = i ∧ ∀ w' : Word, decode w' = i → w' = w)

/-- V21 of spec/95: sample words, each written out from R61 to R65 and R71. -/
def Obligations.SampleWordsDecode : Prop :=
  decode 0x10000003#32 = .init 3#9 ∧ decode 0x10000100#32 = .init 256#9 ∧ decode 0x10000000#32 = .init 0#9 ∧
  decode 0x10000101#32 = .reservedKeylenInit 0x0101#16 ∧ decode 0x10000200#32 = .reservedKeylenInit 0x0200#16 ∧
  decode 0x20000006#32 = .ainit 6#9 ∧ decode 0x30000000#32 = .next ∧ decode 0x30000001#32 = .reservedNextarg 1#16 ∧
  decode 0x4000000A#32 = .fill 10#16 ∧ decode 0x4000FFFF#32 = .fill 65535#16 ∧ decode 0x50000009#32 = .read 9#16 ∧
  decode 0x58000009#32 = .reservedRsv 5#4 0x800#12 9#16 ∧ decode 0x00000000#32 = .reservedOp0 0#16 ∧
  decode 0x60000000#32 = .reservedOp6_7 6#4 0#16 ∧ decode 0xFFFFFFFF#32 = .reservedRsv 15#4 0xFFF#12 0xFFFF#16

/-- R71, R155: a reserved word is answered `ILLEGAL`, whatever the phase, and changes nothing else: no `KEY` beat, nothing
downstream, nothing on `DOUT`; the all-zero and the all-ones words are reserved. -/
def Obligations.ReservedWordsAnswerIllegal : Prop :=
  (∀ (s : State) (w : Word) (rest : List Word), Ready s → s.cmd = w :: rest → isReservedWord w = true →
    step s = .next { s with cmd := rest, rsp := s.rsp ++ [0x40000000#32] }) ∧
  isReservedWord 0x00000000#32 = true ∧ isReservedWord 0xFFFFFFFF#32 = true

/-- R71, R155: each of the seven reserved rows completes, in every state and with every field, with its one `ILLEGAL` word. -/
def Obligations.ReservedInstructionsAnswerIllegal : Prop :=
  ∀ (s : State) (op : BitVec 4) (rsv : BitVec 12) (arg : BitVec 16),
    exec (.reservedOp0 arg) s = .next { s with rsp := s.rsp ++ [0x40000000#32] } ∧
    exec (.reservedOp6_7 op arg) s = .next { s with rsp := s.rsp ++ [0x40000000#32] } ∧
    exec (.reservedOp8_F op arg) s = .next { s with rsp := s.rsp ++ [0x40000000#32] } ∧
    exec (.reservedRsv op rsv arg) s = .next { s with rsp := s.rsp ++ [0x40000000#32] } ∧
    exec (.reservedKeylenInit arg) s = .next { s with rsp := s.rsp ++ [0x40000000#32] } ∧
    exec (.reservedKeylenAinit arg) s = .next { s with rsp := s.rsp ++ [0x40000000#32] } ∧
    exec (.reservedNextarg arg) s = .next { s with rsp := s.rsp ++ [0x40000000#32] }

/-- R75: `ENCRYPT` and `DECRYPT` are the word and the meaning of `READ`; `KEYSTREAM N` with N over 65535 is that many full `FILL`s
and one for the remainder, and delivers what one long fill would. -/
def Obligations.PseudoOperationsExpand : Prop :=
  (∀ (n : Count) (s : State),
    encode (.encrypt n) = [wordOf 5 n.toNat] ∧ encode (.decrypt n) = [wordOf 5 n.toNat] ∧
    exec (.encrypt n) s = exec (.read n) s ∧ exec (.decrypt n) s = exec (.read n) s) ∧
  (∀ n : Nat, 65535 < n →
    encode (.keystream n) =
      List.replicate (n / 65535) (wordOf 4 65535) ++ (if n % 65535 = 0 then [] else [wordOf 4 (n % 65535)])) ∧
  (∀ (s : State) (r : RefGen) (n : Nat), 65535 < n → s.phase = .gen → Represents s.gen r →
    ∃ t, exec (.keystream n) s = .next t ∧ t.dout = s.dout ++ refBytes n r ∧ Represents t.gen (refAfter n r))

/-! ### Constructions (40 R90, 41 R110) -/

/-- R90: `INIT`, accepted in every phase: `InvalidKey` with nothing written for L = 0; else exactly L key beats are taken, the
table is the scheduled one, both cursors are 0, the phase is GEN, and the response is `0x00000000`. -/
def Obligations.InitStartsGeneratorSession : Prop :=
  ∀ (s : State) (l : KeyLen),
    (l.toNat = 0 → exec (.init l) s = .next { s with rsp := s.rsp ++ [0x10000000#32] }) ∧
    (1 ≤ l.toNat → l.toNat ≤ 256 → l.toNat ≤ s.key.length →
      ∃ g, exec (.init l) s =
          .next { s with phase := .gen, gen := g, key := s.key.drop l.toNat, rsp := s.rsp ++ [0x00000000#32] } ∧
        Represents g (refConstructed (s.key.take l.toNat)) ∧ g.S.wf = true)

/-- R110: `AINIT` leaves exactly the generator of `INIT`; the only difference is the phase ADP. Nothing goes downstream. -/
def Obligations.AinitStartsAdapterSession : Prop :=
  ∀ (s : State) (l : KeyLen),
    (l.toNat = 0 → exec (.ainit l) s = .next { s with rsp := s.rsp ++ [0x10000000#32] }) ∧
    (1 ≤ l.toNat → l.toNat ≤ 256 → l.toNat ≤ s.key.length →
      ∃ g, exec (.ainit l) s =
          .next { s with phase := .adp, gen := g, key := s.key.drop l.toNat, rsp := s.rsp ++ [0x00000000#32] } ∧
        exec (.init l) s =
          .next { s with phase := .gen, gen := g, key := s.key.drop l.toNat, rsp := s.rsp ++ [0x00000000#32] } ∧
        Represents g (refConstructed (s.key.take l.toNat)))

/-- R134: from every state an empty key is answered `INVALID_KEY` by both constructions, and (PHASE, S, i, j) stays. -/
def Obligations.EmptyKeyAlwaysFails : Prop :=
  ∀ s : State,
    exec (.init 0#9) s = .next { s with rsp := s.rsp ++ [0x10000000#32] } ∧
    exec (.ainit 0#9) s = .next { s with rsp := s.rsp ++ [0x10000000#32] }

/-- R188, R66, R78: with fewer than L beats on `KEY` the construction is not issued and the core waits, which the model shows as a
step that leaves the state as it is (the model's form of the wait: assumption log 7; U9 calls it stuck); with more, the surplus
stays; a command that fails or is refused takes no beat. -/
def Obligations.KeyBeatsMatchTheLength : Prop :=
  ∀ (s : State) (w : Word) (rest : List Word), Ready s → s.cmd = w :: rest →
    (∀ l : KeyLen, decode w = .init l ∨ decode w = .ainit l →
      (s.key.length < l.toNat → step s = .next s) ∧
      (1 ≤ l.toNat → l.toNat ≤ s.key.length → ∃ t, step s = .next t ∧ t.key = s.key.drop l.toNat) ∧
      (l.toNat = 0 → ∃ t, step s = .next t ∧ t.key = s.key)) ∧
    (isReservedWord w = true → ∃ t, step s = .next t ∧ t.key = s.key)

/-- What the spec infers from R90 (its R98 is marked as derived): a construction depends on its key only through key[p mod L] for
p = 0 to 255, and on nothing of the state before. -/
def Obligations.SameKeySequenceSameGenerator : Prop :=
  (∀ k k' : List Byte, (∀ p, p < 256 → keyByte k p = keyByte k' p) → constructed k = constructed k') ∧
  (∀ (s s' : State) (l l' : KeyLen), 1 ≤ l.toNat → l.toNat ≤ 256 → 1 ≤ l'.toNat → l'.toNat ≤ 256 →
    l.toNat ≤ s.key.length → l'.toNat ≤ s'.key.length →
    (∀ p, p < 256 → keyByte (s.key.take l.toNat) p = keyByte (s'.key.take l'.toNat) p) →
    ∃ t t', exec (.init l) s = .next t ∧ exec (.init l') s' = .next t' ∧ t.gen = t'.gen ∧ t.phase = t'.phase)

/-- What the spec infers from R90 and R8 (its R97 is marked as derived): of a key over 256 bytes only the first 256 count. -/
def Obligations.LongKeyUsesFirst256Bytes : Prop :=
  ∀ key : List Byte, 256 < key.length →
    (∀ p, p < 256 → keyByte key p = key[p]?) ∧ constructed key = constructed (key.take 256)

/-- What the spec infers in R34, from R28 and R90: while the core is unkeyed, what `S`, `i`, `j` hold cannot be observed. With any
other contents the step does the same, and either both cores are still unkeyed or they are in one and the same state. -/
def Obligations.UnkeyedContentsCannotBeObserved : Prop :=
  ∀ (s : State) (g : Generator), s.phase = .unkeyed → s.inFlight = none →
    ∃ t, step s = .next t ∧
      (step { s with gen := g } = .next t ∨
        (t.phase = .unkeyed ∧ t.gen = s.gen ∧ step { s with gen := g } = .next { t with gen := g }))

/-! ### The raw generator (40 R92 to R96) -/

/-- R92: `NEXT` in phase GEN is one PRGA step: response `0x00000001`, one byte; elsewhere `NOT_READY` and no effect. -/
def Obligations.NextDeliversOneByte : Prop :=
  (∀ (s : State) (r : RefGen), s.phase = .gen → Represents s.gen r →
    ∃ g, exec .next s =
        .next { s with gen := g, rsp := s.rsp ++ [0x00000001#32], dout := s.dout ++ [(refStep r).1] } ∧
      Represents g (refStep r).2) ∧
  (∀ s : State, s.phase ≠ .gen → exec .next s = .next { s with rsp := s.rsp ++ [0x30000000#32] })

/-- R93: `FILL N` in phase GEN is N PRGA steps: response `0x0000nnnn`, N bytes in the order produced; elsewhere `NOT_READY`. -/
def Obligations.FillDeliversNBytes : Prop :=
  (∀ (s : State) (r : RefGen) (n : Count), s.phase = .gen → Represents s.gen r →
    ∃ g, exec (.fill n) s =
        .next { s with gen := g, rsp := s.rsp ++ [wordOf 0 n.toNat], dout := s.dout ++ refBytes n.toNat r } ∧
      Represents g (refAfter n.toNat r)) ∧
  (∀ (s : State) (n : Count), s.phase ≠ .gen → exec (.fill n) s = .next { s with rsp := s.rsp ++ [0x30000000#32] })

/-- What the spec infers from R92 and R93 (its R96 is marked as derived): `FILL N` is N `NEXT`s but for the response words, and two
fills are one of the sum. -/
def Obligations.FillIsRepeatedNext : Prop :=
  ∀ s : State, s.phase = .gen → Full s.gen.S →
    (∀ n : Count, ∃ t u, exec (.fill n) s = .next t ∧ nextTimes n.toNat s = .next u ∧
      t.gen = u.gen ∧ t.dout = u.dout ∧
      t.rsp = s.rsp ++ [wordOf 0 n.toNat] ∧ u.rsp = s.rsp ++ List.replicate n.toNat 0x00000001#32) ∧
    (∀ a b : Count, a.toNat + b.toNat ≤ 65535 →
      ∃ t u v, exec (.fill a) s = .next t ∧ exec (.fill b) t = .next u ∧ exec (.fill (a + b)) s = .next v ∧
        u.gen = v.gen ∧ u.dout = v.dout)

/-- R75, R93: `KEYSTREAM n` for every n, by the row's expansion (for n up to 65535 the model's reading: assumption log 9): the
bytes of n PRGA steps, one `OK` word for each `FILL`; in another phase one `NOT_READY` word for each. -/
def Obligations.KeystreamCompletes : Prop :=
  (∀ (s : State) (r : RefGen) (n : Nat), s.phase = .gen → Represents s.gen r →
    ∃ g, exec (.keystream n) s =
        .next { s with gen := g, rsp := s.rsp ++ (keystreamCounts n).map (fun c => wordOf 0 c.toNat),
                       dout := s.dout ++ refBytes n r } ∧
      Represents g (refAfter n r)) ∧
  (∀ (s : State) (n : Nat), s.phase ≠ .gen →
    exec (.keystream n) s =
      .next { s with rsp := s.rsp ++ List.replicate (keystreamCounts n).length 0x30000000#32 })

/-- What the spec infers from R23 and R92 (its R135 is marked as derived): after a construction and m PRGA steps, i is m mod 256. -/
def Obligations.CursorICountsTheBytes : Prop :=
  ∀ (key : List Byte) (m : Nat), key ≠ [] →
    ∃ g zs g', constructed key = some g ∧ prgaRun m g = some (zs, g') ∧ zs.length = m ∧ g'.i.toNat = m % 256

/-! ### The adapter (41, 42) -/

/-- R111: `READ N` (and its spellings) in phase ADP over an answer of n bytes, n at most N: the request is sent, exactly n beats and
n keystream bytes are taken, the bytes are XORed position by position, and the answer's word is forwarded; an error word is
forwarded and nothing else changes; outside ADP the source is not asked. -/
def Obligations.ReadTransformsTheAnswer : Prop :=
  (∀ (s : State) (n : Count) (r0 : RefGen) (r : Word) (rest : List Word), s.phase = .adp → Represents s.gen r0 →
    s.srsp = r :: rest → statusField r = 0x0#4 → (countField r).toNat ≤ n.toNat →
    (countField r).toNat ≤ s.sdin.length →
    ∃ t, exec (.read n) s = .next t ∧ exec (.encrypt n) s = .next t ∧ exec (.decrypt n) s = .next t ∧
      t = { s with
              gen := t.gen
              inFlight := none
              scmd := s.scmd ++ [wordOf 5 n.toNat]
              srsp := rest
              sdin := s.sdin.drop (countField r).toNat
              rsp := s.rsp ++ [r]
              dout := s.dout ++ refCipher (s.sdin.take (countField r).toNat) r0 } ∧
      Represents t.gen (refAfter (countField r).toNat r0)) ∧
  (∀ (s : State) (n : Count) (r : Word) (rest : List Word), s.phase = .adp → s.srsp = r :: rest →
    statusField r ≠ 0x0#4 →
    exec (.read n) s =
      .next { s with inFlight := none, scmd := s.scmd ++ [wordOf 5 n.toNat], srsp := rest, rsp := s.rsp ++ [r] }) ∧
  (∀ (s : State) (n : Count), s.phase ≠ .adp →
    exec (.read n) s = .next { s with rsp := s.rsp ++ [0x30000000#32] })

/-- R113: a source's error word, of any status but `OK`, is forwarded whole; no beat is taken, no byte delivered, no second request
sent, no keystream consumed; it is not remembered. It is so whether the word is there at the request or comes later. -/
def Obligations.SourceErrorPassesUnchanged : Prop :=
  ∀ (s : State) (n : Count) (r : Word) (rest : List Word), s.srsp = r :: rest → statusField r ≠ 0x0#4 →
    (s.phase = .adp →
      exec (.read n) s =
        .next { s with inFlight := none, scmd := s.scmd ++ [wordOf 5 n.toNat], srsp := rest, rsp := s.rsp ++ [r] }) ∧
    (s.resetLine = false → s.inFlight = some n →
      step s = .next { s with inFlight := none, srsp := rest, rsp := s.rsp ++ [r] })

/-- R114, R153: the answer `OK` with count 0 passes unchanged, as `0x00000000` where the source sends that word: no byte, no
keystream consumed, to a request of any length, at once or later. -/
def Obligations.EndOfStreamPasses : Prop :=
  ∀ (s : State) (n : Count) (r : Word) (rest : List Word), s.srsp = r :: rest → statusField r = 0x0#4 →
    countField r = 0x0000#16 →
    (s.phase = .adp →
      exec (.read n) s =
        .next { s with inFlight := none, scmd := s.scmd ++ [wordOf 5 n.toNat], srsp := rest, rsp := s.rsp ++ [r] }) ∧
    (s.resetLine = false → s.inFlight = some n →
      step s = .next { s with inFlight := none, srsp := rest, rsp := s.rsp ++ [r] })

/-- R156: an answer `OK` with a count over N is a fault, at the request and later. -/
def Obligations.OverCountFaults : Prop :=
  ∀ (s : State) (n : Count) (r : Word) (rest : List Word), s.srsp = r :: rest → statusField r = 0x0#4 →
    n.toNat < (countField r).toNat →
    (s.phase = .adp →
      exec (.read n) s = .fault .sourceOverCount ∧ exec (.encrypt n) s = .fault .sourceOverCount ∧
      exec (.decrypt n) s = .fault .sourceOverCount) ∧
    (s.resetLine = false → s.inFlight = some n → step s = .fault .sourceOverCount)

/-- R190, R118: while the source's answer, or one of its beats, is missing, the core waits in the `READ` and accepts nothing else
(the model's form of the wait: assumption log 4 and 6). -/
def Obligations.IncompleteAnswerWaits : Prop :=
  ∀ (s : State) (n : Count),
    AnswerIncomplete n s →
    (s.phase = .adp →
      exec (.read n) s = .next { s with inFlight := some n, scmd := s.scmd ++ [wordOf 5 n.toNat] }) ∧
    (s.resetLine = false → s.inFlight = some n → step s = .next s)

/-- R111, R112, R3: it makes no difference whether the source's answer is there at the request or comes while the core waits. -/
def Obligations.LateAnswerSameAsEarly : Prop :=
  ∀ (s : State) (n : Count) (r : Word) (bytes : List Byte), s.phase = .adp → s.resetLine = false → s.srsp = [] →
    ∃ t, exec (.read n) s = .next t ∧
      step (sourceAnswers r bytes t) = exec (.read n) (sourceAnswers r bytes s)

/-- R133: over any sequence of `READ`s whose source keeps its contract, with partial reads, end-of-stream answers and errors among
them, the bytes delivered are the source's bytes in order, each XORed with the next keystream byte, and the generator has taken
exactly as many PRGA steps as there are bytes. After `AINIT` with key K, r0 is `refConstructed K` and the bytes are KS(K). -/
def Obligations.PartialReadsDeliverTheWhole : Prop :=
  ∀ (s : State) (r0 : RefGen) (qs : List ReadStep), s.phase = .adp → Represents s.gen r0 → s.srsp = [] → s.sdin = [] →
    (∀ q ∈ qs, q.kept) →
    ∃ t, readScript qs s = .next t ∧
      t.dout = s.dout ++ refCipher (scriptData qs) r0 ∧
      Represents t.gen (refAfter (scriptData qs).length r0) ∧
      t.rsp = s.rsp ++ qs.map (fun q => q.answer)

/-- R132: with two cores at the same keystream position, B over A over a source that delivers the data in any pieces, B delivers
the data. After `AINIT` with the same key in both, r0 is `refConstructed` of that key. -/
def Obligations.RoundTripThroughTwoCores : Prop :=
  ∀ (b a : State) (r0 : RefGen) (qs : List ReadStep), AdapterAtRest b → AdapterAtRest a → a.rsp = [] → a.dout = [] →
    Represents b.gen r0 → Represents a.gen r0 → (∀ q ∈ qs, q.kept) →
    ∃ b' a', pairScript qs b a = .next (b', a') ∧
      b'.dout = b.dout ++ scriptData qs ∧
      b'.rsp = b.rsp ++ qs.map (fun q => q.answer) ∧
      Represents b'.gen (refAfter (scriptData qs).length r0) ∧
      Represents a'.gen (refAfter (scriptData qs).length r0)

/-- What the spec infers from R111 and R7 (its R137 is marked as derived): over a source of zero bytes the adapter delivers the
keystream, the bytes `FILL` gives in phase GEN. -/
def Obligations.ZeroDataDeliverTheKeystream : Prop :=
  ∀ (s : State) (n c : Count) (rest : List Word), s.phase = .adp → Full s.gen.S →
    s.srsp = wordOf 0 c.toNat :: rest → c.toNat ≤ n.toNat → c.toNat ≤ s.sdin.length →
    s.sdin.take c.toNat = List.replicate c.toNat 0x00#8 →
    ∃ t u, exec (.read n) s = .next t ∧ exec (.fill c) { s with phase := .gen } = .next u ∧
      t.dout = u.dout ∧ t.gen = u.gen

/-- What the spec infers from R111 (its R137 is marked as derived): the data never influence (S, i, j). With other bytes on `SDIN`
the same `READ` leaves the same generator, sends the same response and delivers as many bytes. -/
def Obligations.DataDoNotInfluenceTheGenerator : Prop :=
  ∀ (s t : State) (n : Count) (other : List Byte), other.length = s.sdin.length → exec (.read n) s = .next t →
    ∃ u, exec (.read n) { s with sdin := other } = .next u ∧
      u.gen = t.gen ∧ u.phase = t.phase ∧ u.rsp = t.rsp ∧ u.dout.length = t.dout.length

/-! ### Errors (60) -/

/-- R154: the table of acceptance: outside its phase an operation is answered `NOT_READY` and changes nothing else; inside it is
accepted; the constructions are accepted in every phase. That an accepted `READ` is shown by its request alone, with no answer on
`SRSP` and no response yet (R111 step 1), is the model's form of the wait: assumption log 4. -/
def Obligations.AcceptanceByPhase : Prop :=
  ∀ s : State,
    (s.phase ≠ .gen → exec .next s = .next { s with rsp := s.rsp ++ [0x30000000#32] } ∧
      ∀ n, exec (.fill n) s = .next { s with rsp := s.rsp ++ [0x30000000#32] }) ∧
    (s.phase ≠ .adp → ∀ n, exec (.read n) s = .next { s with rsp := s.rsp ++ [0x30000000#32] } ∧
      exec (.encrypt n) s = .next { s with rsp := s.rsp ++ [0x30000000#32] } ∧
      exec (.decrypt n) s = .next { s with rsp := s.rsp ++ [0x30000000#32] }) ∧
    (s.phase = .gen → Full s.gen.S → (∃ t, exec .next s = .next t ∧ t.rsp = s.rsp ++ [0x00000001#32]) ∧
      ∀ n, ∃ t, exec (.fill n) s = .next t ∧ t.rsp = s.rsp ++ [wordOf 0 n.toNat]) ∧
    (s.phase = .adp → s.srsp = [] → ∀ n, ∃ t, exec (.read n) s = .next t ∧
      t.scmd = s.scmd ++ [wordOf 5 n.toNat] ∧ t.rsp = s.rsp) ∧
    (∀ l : KeyLen, 1 ≤ l.toNat → l.toNat ≤ 256 → l.toNat ≤ s.key.length →
      (∃ t, exec (.init l) s = .next t ∧ t.rsp = s.rsp ++ [0x00000000#32] ∧ t.phase = .gen) ∧
      (∃ t, exec (.ainit l) s = .next t ∧ t.rsp = s.rsp ++ [0x00000000#32] ∧ t.phase = .adp))

/-- R158: the order of the tests on one command word: decode, phase, key length, then the operation runs, and a source's error is
forwarded. -/
def Obligations.TestsInOrder : Prop :=
  ∀ (s : State) (w : Word) (rest : List Word), Ready s → s.cmd = w :: rest →
    (isReservedWord w = true → step s = .next { s with cmd := rest, rsp := s.rsp ++ [0x40000000#32] }) ∧
    (isReservedWord w = false →
      (((opNumber w = 3 ∨ opNumber w = 4) ∧ s.phase ≠ .gen) ∨ (opNumber w = 5 ∧ s.phase ≠ .adp) →
        step s = .next { s with cmd := rest, rsp := s.rsp ++ [0x30000000#32] }) ∧
      ((opNumber w = 1 ∨ opNumber w = 2) → argNumber w = 0 →
        step s = .next { s with cmd := rest, rsp := s.rsp ++ [0x10000000#32] }) ∧
      (opNumber w = 5 → s.phase = .adp → ∀ r more, s.srsp = r :: more → statusField r ≠ 0x0#4 →
        step s = .next { s with cmd := rest, scmd := s.scmd ++ [w], srsp := more, rsp := s.rsp ++ [r] }) ∧
      step s = exec (decode w) { s with cmd := rest })

/-- What the spec infers from R151, R154, R155 and R113 (its R159 is marked as derived): a step that answers with an error word
leaves (PHASE, S, i, j), `DOUT`, `KEY` and `SDIN` as they were. -/
def Obligations.ErrorsChangeNothingElse : Prop :=
  ∀ (s t : State) (r : Word), step s = .next t → t.rsp = s.rsp ++ [r] → statusField r ≠ 0x0#4 →
    t.phase = s.phase ∧ t.gen = s.gen ∧ t.dout = s.dout ∧ t.key = s.key ∧ t.sdin = s.sdin ∧ t.inFlight = none

/-- R67, R78: a command taken gets exactly one response word, at once or, for a `READ` in phase ADP whose source has not answered
whole, when the answer comes; until then no other command is taken. The only command that is not taken is a construction with fewer
than L beats on `KEY`, and the only `READ` in flight that stays so is one whose answer is incomplete; the state is then left as it
is (the model's form of the waits: assumption log 4 and 7). -/
def Obligations.OneResponsePerCommand : Prop :=
  (∀ (s t : State) (w : Word) (rest : List Word), Ready s → s.cmd = w :: rest → step s = .next t →
    (t = s ∧ ∃ l : KeyLen, (decode w = .init l ∨ decode w = .ainit l) ∧ s.key.length < l.toNat) ∨
    (t.cmd = rest ∧ t.inFlight = none ∧ ∃ r, t.rsp = s.rsp ++ [r]) ∨
    (t.cmd = rest ∧ t.rsp = s.rsp ∧ s.phase = .adp ∧
      ∃ n, decode w = .read n ∧ t.inFlight = some n ∧ AnswerIncomplete n s)) ∧
  (∀ (s t : State) (n : Count), s.resetLine = false → s.inFlight = some n → step s = .next t →
    (t = s ∧ AnswerIncomplete n s) ∨ (t.cmd = s.cmd ∧ t.inFlight = none ∧ ∃ r, t.rsp = s.rsp ++ [r]))

/-- R69: after a response `OK` with `COUNT = c` exactly c beats are put on `DOUT`, after any other response none, and without a
response none. -/
def Obligations.ResponseCountFramesTheOutput : Prop :=
  ∀ s t : State, s.resetLine = false → step s = .next t →
    (t.rsp = s.rsp ∧ t.dout = s.dout) ∨
    (∃ r bytes, t.rsp = s.rsp ++ [r] ∧ t.dout = s.dout ++ bytes ∧
      bytes.length = if statusField r = 0x0#4 then (countField r).toNat else 0)

/-- R157, R156: nothing but a source's broken contract stops the core. From a state that keeps the invariant a step faults only in
a `READ n`, in flight or at the head of `CMD`, in phase ADP, whose source has answered `OK` with a count over n; and it never
refuses. -/
def Obligations.OnlyTheSourceCanFault : Prop :=
  ∀ s : State, Inv s →
    (∀ f, step s = .fault f → f = .sourceOverCount ∧ s.phase = .adp ∧
      ∃ n r rest, (s.inFlight = some n ∨ (s.inFlight = none ∧ ∃ w more, s.cmd = w :: more ∧ decode w = .read n)) ∧
        s.srsp = r :: rest ∧ statusField r = 0x0#4 ∧ n.toNat < (countField r).toNat) ∧
    (∀ e, step s ≠ .refused e)

/-! ### The whole machine (10, 20, 70) -/

/-- R34, R180, R181: after reset the core is unkeyed, no entry of `S` holds a value, no command is in flight and the seven channels
are empty. (`i` and `j`, which the spec gives no value, are the model's choice, assumption log 1: nothing is said of them.) -/
def Obligations.ResetIsUnkeyedAndEmpty : Prop :=
  State.reset.phase = .unkeyed ∧ State.reset.phase.bits = 0b00#2 ∧ (∀ a, readS State.reset.gen.S a = none) ∧
  State.reset.inFlight = none ∧ State.reset.cmd = [] ∧ State.reset.key = [] ∧ State.reset.rsp = [] ∧
  State.reset.dout = [] ∧ State.reset.scmd = [] ∧ State.reset.srsp = [] ∧ State.reset.sdin = []

/-- R180: the reset event, at any time, also while a `READ` waits: unkeyed, `S` without values, the command abandoned without a
response word, all seven channels emptied. -/
def Obligations.ResetEventAbandonsEverything : Prop :=
  ∀ s : State, s.resetLine = true →
    ∃ t, step s = .next t ∧ t.phase = .unkeyed ∧ (∀ a, readS t.gen.S a = none) ∧ t.inFlight = none ∧
      t.resetLine = false ∧ t.cmd = [] ∧ t.key = [] ∧ t.rsp = [] ∧ t.dout = [] ∧ t.scmd = [] ∧ t.srsp = [] ∧ t.sdin = []

/-- The invariant holds after reset (R34, R181). -/
def Obligations.InvariantHoldsAtReset : Prop := Inv State.reset

/-- R21, R131, R34: every step keeps the invariant: memory in canonical form, no value in `S` while unkeyed, a permutation of 0 to
255 afterwards, and a `READ` in flight only in phase ADP. -/
def Obligations.EveryStepKeepsTheInvariant : Prop :=
  ∀ s t : State, Inv s → step s = .next t → Inv t

/-- R131: after a successful construction `S` is a permutation, and every instruction, accepted, failed or refused, and every step
(a `READ` that completes later among them) keeps it one until the reset event. -/
def Obligations.PermutationIsKept : Prop :=
  (∀ (s : State) (l : KeyLen), 1 ≤ l.toNat → l.toNat ≤ 256 → l.toNat ≤ s.key.length →
    (∃ t, exec (.init l) s = .next t ∧ IsPermutation t.gen.S) ∧
    (∃ t, exec (.ainit l) s = .next t ∧ IsPermutation t.gen.S)) ∧
  (∀ (i : Instr) (s t : State), exec i s = .next t → IsPermutation s.gen.S → IsPermutation t.gen.S) ∧
  (∀ s t : State, s.resetLine = false → step s = .next t → IsPermutation s.gen.S → IsPermutation t.gen.S)

/-- R28: `PHASE` is written only by reset, by a successful `INIT` and by a successful `AINIT`. -/
def Obligations.PhaseWrittenOnlyByResetAndConstructions : Prop :=
  ∀ s t : State, step s = .next t → t.phase ≠ s.phase →
    (s.resetLine = true ∧ t.phase = .unkeyed) ∨
    (s.resetLine = false ∧ t.rsp = s.rsp ++ [0x00000000#32] ∧ ∃ w rest l, s.cmd = w :: rest ∧
      ((decode w = .init l ∧ t.phase = .gen) ∨ (decode w = .ainit l ∧ t.phase = .adp)))

/-- R66: only a successful construction takes beats from `KEY`, and it takes exactly L of them. -/
def Obligations.KeyTakenOnlyByConstructions : Prop :=
  ∀ s t : State, s.resetLine = false → step s = .next t → t.key ≠ s.key →
    t.rsp = s.rsp ++ [0x00000000#32] ∧ ∃ w rest l, s.cmd = w :: rest ∧ (decode w = .init l ∨ decode w = .ainit l) ∧
      1 ≤ l.toNat ∧ l.toNat ≤ 256 ∧ l.toNat ≤ s.key.length ∧ t.key = s.key.drop l.toNat

/-- R70, R60: the core sends downstream only `READ` words, one for a `READ` it executes, and only in phase ADP. -/
def Obligations.OnlyReadWordsGoDownstream : Prop :=
  ∀ s t : State, s.resetLine = false → step s = .next t →
    t.scmd = s.scmd ∨
    (s.phase = .adp ∧ ∃ (n : Count) (rest : List Word), s.cmd = wordOf 5 n.toNat :: rest ∧
      t.scmd = s.scmd ++ [wordOf 5 n.toNat])

/-- R29, R77, R78, R166, R190: a step is the execution of the instruction the word at the head of `CMD` decodes to, on the state
without that word; while a `READ` is in flight no command is taken; with none on `CMD` the core holds its state. -/
def Obligations.StepRunsTheDecodedInstruction : Prop :=
  (∀ (s : State) (w : Word) (rest : List Word) (i : Instr), Ready s → s.cmd = w :: rest → decode w = i →
    step s = exec i { s with cmd := rest }) ∧
  (∀ (s : State) (n : Count), s.resetLine = false → s.inFlight = some n → step s = resumeRead n s) ∧
  (∀ s : State, Ready s → s.cmd = [] → step s = .next s)

/-! ### Frames -/

/-- The frame of `NEXT`, `FILL` and `KEYSTREAM` (R92, R93, R154): everything but the generator, `RSP` and `DOUT` is unchanged, which
only grow at their ends; every entry of `S` but those the PRGA steps exchange reads as before; outside phase GEN the generator and
`DOUT` are unchanged. -/
def Obligations.FrameOfTheGeneratorOperations : Prop :=
  ∀ (i : Instr) (n : Nat) (s t : State),
    ((i = .next ∧ n = 1) ∨ (∃ c : Count, i = .fill c ∧ n = c.toNat) ∨ i = .keystream n) → exec i s = .next t →
    t.phase = s.phase ∧ t.inFlight = s.inFlight ∧ t.resetLine = s.resetLine ∧ t.cmd = s.cmd ∧ t.key = s.key ∧
    t.scmd = s.scmd ∧ t.srsp = s.srsp ∧ t.sdin = s.sdin ∧
    (∃ words, t.rsp = s.rsp ++ words) ∧ (∃ bytes, t.dout = s.dout ++ bytes) ∧
    (∀ a : Index, a ∉ storedBy n s.gen → readS t.gen.S a = readS s.gen.S a) ∧
    (s.phase ≠ .gen → t.gen = s.gen ∧ t.dout = s.dout)

/-- The frame of `READ`, `ENCRYPT` and `DECRYPT` (R111, R113, R154): the phase, `CMD` and `KEY` are unchanged; as many bytes as are
delivered are taken from `SDIN`; `S`, `i` and `j` are those after that many PRGA steps, so every entry of `S` but those the steps
exchange reads as before, and with no byte delivered all of them are unchanged. In phase ADP `SCMD` gains exactly the request, and
either nothing is answered, delivered or taken and the `READ` is in flight (the model's form of the wait: assumption log 4), or the
word at the head of `SRSP` has moved to `RSP` and none is in flight. Outside phase ADP only `RSP` changes. -/
def Obligations.FrameOfTheReads : Prop :=
  ∀ (i : Instr) (n : Count) (s t : State), (i = .read n ∨ i = .encrypt n ∨ i = .decrypt n) → exec i s = .next t →
    t.phase = s.phase ∧ t.resetLine = s.resetLine ∧ t.cmd = s.cmd ∧ t.key = s.key ∧
    (∃ bytes zs, t.dout = s.dout ++ bytes ∧ t.sdin = s.sdin.drop bytes.length ∧
      prgaRun bytes.length s.gen = some (zs, t.gen) ∧
      (bytes = [] → t.gen = s.gen) ∧
      ∀ a : Index, a ∉ storedBy bytes.length s.gen → readS t.gen.S a = readS s.gen.S a) ∧
    (s.phase = .adp → t.scmd = s.scmd ++ [wordOf 5 n.toNat] ∧
      ((t.srsp = s.srsp ∧ t.rsp = s.rsp ∧ t.dout = s.dout ∧ t.sdin = s.sdin ∧ t.gen = s.gen ∧ t.inFlight = some n) ∨
        (∃ r, s.srsp = r :: t.srsp ∧ t.rsp = s.rsp ++ [r] ∧ t.inFlight = none))) ∧
    (s.phase ≠ .adp → t = { s with rsp := s.rsp ++ [0x30000000#32] })

/-- The frame of `INIT` and `AINIT` (R90, R110, R151): `DOUT`, the downstream channels, the `READ` in flight and the reset input are
unchanged; without the response `0x00000000` the phase, all of `S`, both cursors and `KEY` are unchanged too. A successful
construction writes all 256 entries of `S`, so no entry is outside the stored bytes. -/
def Obligations.FrameOfTheConstructions : Prop :=
  ∀ (i : Instr) (l : KeyLen) (s t : State), (i = .init l ∨ i = .ainit l) → exec i s = .next t →
    t.inFlight = s.inFlight ∧ t.resetLine = s.resetLine ∧ t.dout = s.dout ∧ t.scmd = s.scmd ∧ t.srsp = s.srsp ∧
    t.sdin = s.sdin ∧
    (t.rsp ≠ s.rsp ++ [0x00000000#32] → t.phase = s.phase ∧ t.gen = s.gen ∧ t.key = s.key) ∧
    (t.rsp ≠ s.rsp → t.cmd = s.cmd)
end

