-- ==== Sys2Proof/Laws/Encoding.lean ====
section
/-! SUPPORT. The fields of a packed word, and a word from its fields (R61). -/

namespace Sys2Proof

theorem packWord_toNat (op : BitVec 4) (rsv : BitVec 12) (arg : BitVec 16) :
    (packWord op rsv arg).toNat = op.toNat * 2 ^ 28 + rsv.toNat * 2 ^ 16 + arg.toNat := by
  have h1 := rsv.isLt
  have h2 := arg.isLt
  simp only [packWord, BitVec.toNat_append]
  rw [← Nat.shiftLeft_add_eq_or_of_lt (by omega), ← Nat.shiftLeft_add_eq_or_of_lt (by omega)]
  simp only [Nat.shiftLeft_eq]
  omega

theorem opField_toNat (w : Word) : (opField w).toNat = w.toNat / 2 ^ 28 := by
  have := w.isLt
  simp [opField, BitVec.extractLsb'_toNat, Nat.shiftRight_eq_div_pow]
  omega

theorem rsvField_toNat (w : Word) : (rsvField w).toNat = w.toNat / 2 ^ 16 % 2 ^ 12 := by
  simp [rsvField, BitVec.extractLsb'_toNat, Nat.shiftRight_eq_div_pow]

theorem argField_toNat (w : Word) : (argField w).toNat = w.toNat % 2 ^ 16 := by
  simp [argField, BitVec.extractLsb'_toNat]

@[simp] theorem opField_packWord (op : BitVec 4) (rsv : BitVec 12) (arg : BitVec 16) :
    opField (packWord op rsv arg) = op := by
  apply BitVec.eq_of_toNat_eq
  have h1 := rsv.isLt
  have h2 := arg.isLt
  rw [opField_toNat, packWord_toNat]
  omega

@[simp] theorem rsvField_packWord (op : BitVec 4) (rsv : BitVec 12) (arg : BitVec 16) :
    rsvField (packWord op rsv arg) = rsv := by
  apply BitVec.eq_of_toNat_eq
  have h1 := rsv.isLt
  have h2 := arg.isLt
  rw [rsvField_toNat, packWord_toNat]
  omega

@[simp] theorem argField_packWord (op : BitVec 4) (rsv : BitVec 12) (arg : BitVec 16) :
    argField (packWord op rsv arg) = arg := by
  apply BitVec.eq_of_toNat_eq
  have h2 := arg.isLt
  rw [argField_toNat, packWord_toNat]
  omega

@[simp] theorem packWord_fields (w : Word) : packWord (opField w) (rsvField w) (argField w) = w := by
  apply BitVec.eq_of_toNat_eq
  rw [packWord_toNat, opField_toNat, rsvField_toNat, argField_toNat]
  omega

@[simp] theorem argOfKeyLen_toNat (l : KeyLen) : (argOfKeyLen l).toNat = l.toNat := by
  have := l.isLt
  simp [argOfKeyLen]
  omega

@[simp] theorem keyLenOfArg_argOfKeyLen (l : KeyLen) : keyLenOfArg (argOfKeyLen l) = l := by
  apply BitVec.eq_of_toNat_eq
  have := l.isLt
  simp [keyLenOfArg]
  omega

theorem argOfKeyLen_keyLenOfArg {arg : BitVec 16} (h : arg.toNat ≤ Config.keyMax) :
    argOfKeyLen (keyLenOfArg arg) = arg := by
  apply BitVec.eq_of_toNat_eq
  simp only [Config.keyMax] at h
  simp [keyLenOfArg]
  omega

end Sys2Proof
end

