-- ==== Sys2Proof/Laws/Memory.lean ====
section
/-! SUPPORT. The permutation memory: a read after a write, the canonical form, and `swap` (R9, R41, R44, R47). -/

namespace Sys2Proof.Machine

@[simp] theorem readCell_nil (x : Nat) : readCell [] x = none := rfl

theorem readCell_writeCell (m : List Host.Cell) (x y : Nat) (v : Byte) :
    readCell (writeCell m x v) y = if y = x then some v else readCell m y := by
  induction m with
  | nil => by_cases h : x = y <;> simp [writeCell, readCell, h, unlisted, eq_comm]
  | cons c m ih =>
    obtain ⟨a, w⟩ := c
    simp only [writeCell]
    split
    · subst a
      by_cases h : x = y
      · simp [readCell, h]
      · simp [readCell, h, Ne.symm h]
    · split
      · by_cases h : x = y
        · simp [readCell, h]
        · simp [readCell, h, Ne.symm h]
      · by_cases h : a = y
        · subst h
          simp [readCell, *]
        · simp [readCell, h, ih]

/-- A read after a write: the byte written at its address, what was there before at every other (R44, R47). -/
theorem readS_writeS (m : Memory) (a b : Index) (v : Byte) :
    readS (writeS m a v) b = if b = a then some v else readS m b := by
  simp only [readS, writeS, readCell_writeCell, BitVec.toNat_inj]

theorem risingFrom_mono {lo hi : Nat} (h : lo ≤ hi) {m : List Host.Cell} (hm : risingFrom hi m = true) :
    risingFrom lo m = true := by
  cases m with
  | nil => rfl
  | cons c m =>
    simp only [risingFrom, Bool.and_eq_true, decide_eq_true_eq] at hm ⊢
    exact ⟨⟨h.trans hm.1.1, hm.1.2⟩, hm.2⟩

theorem risingFrom_writeCell {lo : Nat} {m : List Host.Cell} {x : Nat} (v : Byte) (hlo : lo ≤ x)
    (hx : x < Config.tableSize) (hm : risingFrom lo m = true) : risingFrom lo (writeCell m x v) = true := by
  induction m generalizing lo with
  | nil => simp [writeCell, risingFrom, hlo, hx]
  | cons c m ih =>
    obtain ⟨a, w⟩ := c
    simp only [risingFrom, Bool.and_eq_true, decide_eq_true_eq] at hm
    simp only [writeCell]
    split
    · subst a
      simp [risingFrom, hm]
    · split
      · simp only [risingFrom, Bool.and_eq_true, decide_eq_true_eq]
        exact ⟨⟨hlo, hx⟩, ⟨by omega, hm.1.2⟩, hm.2⟩
      · simp only [risingFrom, Bool.and_eq_true, decide_eq_true_eq]
        exact ⟨hm.1, ih (by omega) hm.2⟩

/-- A write keeps the canonical form. -/
theorem writeS_wf {m : Memory} (a : Index) (v : Byte) (h : m.wf = true) : (writeS m a v).wf = true :=
  risingFrom_writeCell v (Nat.zero_le _) a.isLt h

/-- A swap keeps the canonical form. -/
theorem swap_wf {m m' : Memory} {a b : Index} (h : m.wf = true) (hs : swap m a b = some m') : m'.wf = true := by
  unfold swap at hs
  split at hs
  · cases hs
    exact writeS_wf _ _ (writeS_wf _ _ h)
  · cases hs

theorem reset_memory_wf : State.reset.gen.S.wf = true := rfl

theorem risingFrom_map_range (f : Nat → Byte) (n lo : Nat) (h : lo + n ≤ Config.tableSize) :
    risingFrom lo ((List.range' lo n).map fun p => (p, f p)) = true := by
  induction n generalizing lo with
  | zero => rfl
  | succ n ih =>
    simp only [List.range'_succ, List.map_cons, risingFrom, Bool.and_eq_true, decide_eq_true_eq]
    exact ⟨⟨le_refl _, by omega⟩, ih (lo + 1) (by omega)⟩

theorem identityTable_wf : identityTable.wf = true := by
  simp only [identityTable, List.range_eq_range', Memory.wf]
  exact risingFrom_map_range _ _ _ (by simp [Config.tableSize])

theorem readCell_map_range (f : Nat → Byte) (n lo x : Nat) :
    readCell ((List.range' lo n).map fun p => (p, f p)) x =
      if lo ≤ x ∧ x < lo + n then some (f x) else none := by
  induction n generalizing lo with
  | zero => simp only [List.range'_zero, List.map_nil, readCell_nil]; rw [if_neg (by omega)]
  | succ n ih =>
    simp only [List.range'_succ, List.map_cons, readCell, ih]
    by_cases h : lo = x
    · subst h; simp
    · rw [if_neg h]
      congr 1
      simp only [eq_iff_iff]
      omega

/-- Step 1 of the key schedule: entry `a` holds `a` (R90). -/
@[simp] theorem readS_identityTable (a : Index) : readS identityTable a = some a := by
  simp only [readS, identityTable, List.range_eq_range', readCell_map_range, Config.tableSize]
  rw [if_pos ⟨Nat.zero_le _, by have := a.isLt; omega⟩]
  simp

/-- A swap of two entries that hold values, and what every entry holds afterwards (R9). -/
theorem swap_of_read {m : Memory} {a b : Index} {x y : Byte} (ha : readS m a = some x) (hb : readS m b = some y) :
    swap m a b = some (writeS (writeS m a y) b x) := by
  simp [swap, ha, hb]

theorem readS_of_swap {m m' : Memory} {a b : Index} (h : swap m a b = some m') (c : Index) :
    readS m' c = if c = b then readS m a else if c = a then readS m b else readS m c := by
  unfold swap at h
  split at h
  · rename_i x y hx hy
    cases h
    simp only [readS_writeS, hx, hy]
  · cases h

/-- What a swap can do: both entries held values, and they are exchanged. -/
theorem swap_cases {m m' : Memory} {a b : Index} (h : swap m a b = some m') :
    ∃ x y, readS m a = some x ∧ readS m b = some y ∧ m' = writeS (writeS m a y) b x := by
  unfold swap at h
  split at h
  · rename_i x y hx hy
    exact ⟨x, y, hx, hy, (Option.some.inj h).symm⟩
  · cases h

end Sys2Proof.Machine
end

