-- ==== Sys2Proof/Laws/State.lean ====
section
/-! SUPPORT. One lemma per field of State and update of State: what the update leaves in the field. -/

namespace Sys2Proof.Machine

@[simp] theorem respond_phase (w : Word) (s : State) : (respond w s).phase = s.phase := rfl
@[simp] theorem respond_gen (w : Word) (s : State) : (respond w s).gen = s.gen := rfl
@[simp] theorem respond_inFlight (w : Word) (s : State) : (respond w s).inFlight = s.inFlight := rfl
@[simp] theorem respond_resetLine (w : Word) (s : State) : (respond w s).resetLine = s.resetLine := rfl
@[simp] theorem respond_cmd (w : Word) (s : State) : (respond w s).cmd = s.cmd := rfl
@[simp] theorem respond_key (w : Word) (s : State) : (respond w s).key = s.key := rfl
@[simp] theorem respond_rsp (w : Word) (s : State) : (respond w s).rsp = s.rsp ++ [w] := rfl
@[simp] theorem respond_dout (w : Word) (s : State) : (respond w s).dout = s.dout := rfl
@[simp] theorem respond_scmd (w : Word) (s : State) : (respond w s).scmd = s.scmd := rfl
@[simp] theorem respond_srsp (w : Word) (s : State) : (respond w s).srsp = s.srsp := rfl
@[simp] theorem respond_sdin (w : Word) (s : State) : (respond w s).sdin = s.sdin := rfl

@[simp] theorem emit_phase (bytes : List Byte) (s : State) : (emit bytes s).phase = s.phase := rfl
@[simp] theorem emit_gen (bytes : List Byte) (s : State) : (emit bytes s).gen = s.gen := rfl
@[simp] theorem emit_inFlight (bytes : List Byte) (s : State) : (emit bytes s).inFlight = s.inFlight := rfl
@[simp] theorem emit_resetLine (bytes : List Byte) (s : State) : (emit bytes s).resetLine = s.resetLine := rfl
@[simp] theorem emit_cmd (bytes : List Byte) (s : State) : (emit bytes s).cmd = s.cmd := rfl
@[simp] theorem emit_key (bytes : List Byte) (s : State) : (emit bytes s).key = s.key := rfl
@[simp] theorem emit_rsp (bytes : List Byte) (s : State) : (emit bytes s).rsp = s.rsp := rfl
@[simp] theorem emit_dout (bytes : List Byte) (s : State) : (emit bytes s).dout = s.dout ++ bytes := rfl
@[simp] theorem emit_scmd (bytes : List Byte) (s : State) : (emit bytes s).scmd = s.scmd := rfl
@[simp] theorem emit_srsp (bytes : List Byte) (s : State) : (emit bytes s).srsp = s.srsp := rfl
@[simp] theorem emit_sdin (bytes : List Byte) (s : State) : (emit bytes s).sdin = s.sdin := rfl

@[simp] theorem sendDown_phase (w : Word) (s : State) : (sendDown w s).phase = s.phase := rfl
@[simp] theorem sendDown_gen (w : Word) (s : State) : (sendDown w s).gen = s.gen := rfl
@[simp] theorem sendDown_inFlight (w : Word) (s : State) : (sendDown w s).inFlight = s.inFlight := rfl
@[simp] theorem sendDown_resetLine (w : Word) (s : State) : (sendDown w s).resetLine = s.resetLine := rfl
@[simp] theorem sendDown_cmd (w : Word) (s : State) : (sendDown w s).cmd = s.cmd := rfl
@[simp] theorem sendDown_key (w : Word) (s : State) : (sendDown w s).key = s.key := rfl
@[simp] theorem sendDown_rsp (w : Word) (s : State) : (sendDown w s).rsp = s.rsp := rfl
@[simp] theorem sendDown_dout (w : Word) (s : State) : (sendDown w s).dout = s.dout := rfl
@[simp] theorem sendDown_scmd (w : Word) (s : State) : (sendDown w s).scmd = s.scmd ++ [w] := rfl
@[simp] theorem sendDown_srsp (w : Word) (s : State) : (sendDown w s).srsp = s.srsp := rfl
@[simp] theorem sendDown_sdin (w : Word) (s : State) : (sendDown w s).sdin = s.sdin := rfl

@[simp] theorem notIssued_phase (w : Word) (s : State) : (notIssued w s).phase = s.phase := rfl
@[simp] theorem notIssued_gen (w : Word) (s : State) : (notIssued w s).gen = s.gen := rfl
@[simp] theorem notIssued_inFlight (w : Word) (s : State) : (notIssued w s).inFlight = s.inFlight := rfl
@[simp] theorem notIssued_resetLine (w : Word) (s : State) : (notIssued w s).resetLine = s.resetLine := rfl
@[simp] theorem notIssued_cmd (w : Word) (s : State) : (notIssued w s).cmd = w :: s.cmd := rfl
@[simp] theorem notIssued_key (w : Word) (s : State) : (notIssued w s).key = s.key := rfl
@[simp] theorem notIssued_rsp (w : Word) (s : State) : (notIssued w s).rsp = s.rsp := rfl
@[simp] theorem notIssued_dout (w : Word) (s : State) : (notIssued w s).dout = s.dout := rfl
@[simp] theorem notIssued_scmd (w : Word) (s : State) : (notIssued w s).scmd = s.scmd := rfl
@[simp] theorem notIssued_srsp (w : Word) (s : State) : (notIssued w s).srsp = s.srsp := rfl
@[simp] theorem notIssued_sdin (w : Word) (s : State) : (notIssued w s).sdin = s.sdin := rfl

@[simp] theorem sourceAnswers_phase (r : Word) (bytes : List Byte) (s : State) : (sourceAnswers r bytes s).phase = s.phase := rfl
@[simp] theorem sourceAnswers_gen (r : Word) (bytes : List Byte) (s : State) : (sourceAnswers r bytes s).gen = s.gen := rfl
@[simp] theorem sourceAnswers_inFlight (r : Word) (bytes : List Byte) (s : State) : (sourceAnswers r bytes s).inFlight = s.inFlight := rfl
@[simp] theorem sourceAnswers_resetLine (r : Word) (bytes : List Byte) (s : State) : (sourceAnswers r bytes s).resetLine = s.resetLine := rfl
@[simp] theorem sourceAnswers_cmd (r : Word) (bytes : List Byte) (s : State) : (sourceAnswers r bytes s).cmd = s.cmd := rfl
@[simp] theorem sourceAnswers_key (r : Word) (bytes : List Byte) (s : State) : (sourceAnswers r bytes s).key = s.key := rfl
@[simp] theorem sourceAnswers_rsp (r : Word) (bytes : List Byte) (s : State) : (sourceAnswers r bytes s).rsp = s.rsp := rfl
@[simp] theorem sourceAnswers_dout (r : Word) (bytes : List Byte) (s : State) : (sourceAnswers r bytes s).dout = s.dout := rfl
@[simp] theorem sourceAnswers_scmd (r : Word) (bytes : List Byte) (s : State) : (sourceAnswers r bytes s).scmd = s.scmd := rfl
@[simp] theorem sourceAnswers_srsp (r : Word) (bytes : List Byte) (s : State) : (sourceAnswers r bytes s).srsp = s.srsp ++ [r] := rfl
@[simp] theorem sourceAnswers_sdin (r : Word) (bytes : List Byte) (s : State) : (sourceAnswers r bytes s).sdin = s.sdin ++ bytes := rfl

@[simp] theorem issueLine_phase (l : Line) (s : State) : (issueLine l s).phase = s.phase := rfl
@[simp] theorem issueLine_gen (l : Line) (s : State) : (issueLine l s).gen = s.gen := rfl
@[simp] theorem issueLine_inFlight (l : Line) (s : State) : (issueLine l s).inFlight = s.inFlight := rfl
@[simp] theorem issueLine_resetLine (l : Line) (s : State) : (issueLine l s).resetLine = s.resetLine := rfl
@[simp] theorem issueLine_cmd (l : Line) (s : State) : (issueLine l s).cmd = s.cmd ++ lineWords l := rfl
@[simp] theorem issueLine_key (l : Line) (s : State) : (issueLine l s).key = s.key ++ lineKey l := rfl
@[simp] theorem issueLine_rsp (l : Line) (s : State) : (issueLine l s).rsp = s.rsp := rfl
@[simp] theorem issueLine_dout (l : Line) (s : State) : (issueLine l s).dout = s.dout := rfl
@[simp] theorem issueLine_scmd (l : Line) (s : State) : (issueLine l s).scmd = s.scmd := rfl
@[simp] theorem issueLine_srsp (l : Line) (s : State) : (issueLine l s).srsp = s.srsp := rfl
@[simp] theorem issueLine_sdin (l : Line) (s : State) : (issueLine l s).sdin = s.sdin := rfl

@[simp] theorem placeCommand_phase (w : Word) (s : State) : (placeCommand w s).phase = s.phase := rfl
@[simp] theorem placeCommand_gen (w : Word) (s : State) : (placeCommand w s).gen = s.gen := rfl
@[simp] theorem placeCommand_inFlight (w : Word) (s : State) : (placeCommand w s).inFlight = none := rfl
@[simp] theorem placeCommand_resetLine (w : Word) (s : State) : (placeCommand w s).resetLine = false := rfl
@[simp] theorem placeCommand_cmd (w : Word) (s : State) : (placeCommand w s).cmd = w :: s.cmd := rfl
@[simp] theorem placeCommand_key (w : Word) (s : State) : (placeCommand w s).key = s.key ++ List.replicate (keyBeatsOf w - s.key.length) 0#8 := rfl
@[simp] theorem placeCommand_rsp (w : Word) (s : State) : (placeCommand w s).rsp = s.rsp := rfl
@[simp] theorem placeCommand_dout (w : Word) (s : State) : (placeCommand w s).dout = s.dout := rfl
@[simp] theorem placeCommand_scmd (w : Word) (s : State) : (placeCommand w s).scmd = s.scmd := rfl
@[simp] theorem placeCommand_srsp (w : Word) (s : State) : (placeCommand w s).srsp = s.srsp := rfl
@[simp] theorem placeCommand_sdin (w : Word) (s : State) : (placeCommand w s).sdin = s.sdin := rfl

@[simp] theorem reset_phase : State.reset.phase = .unkeyed := rfl
@[simp] theorem reset_gen_S : State.reset.gen.S = [] := rfl
@[simp] theorem reset_inFlight : State.reset.inFlight = none := rfl
@[simp] theorem reset_resetLine : State.reset.resetLine = false := rfl
@[simp] theorem reset_cmd : State.reset.cmd = [] := rfl
@[simp] theorem reset_key : State.reset.key = [] := rfl
@[simp] theorem reset_rsp : State.reset.rsp = [] := rfl
@[simp] theorem reset_dout : State.reset.dout = [] := rfl
@[simp] theorem reset_scmd : State.reset.scmd = [] := rfl
@[simp] theorem reset_srsp : State.reset.srsp = [] := rfl
@[simp] theorem reset_sdin : State.reset.sdin = [] := rfl

@[simp] theorem resetEvent_eq (s : State) : resetEvent s = State.reset := rfl

end Sys2Proof.Machine
end

