-- ==== Sys2Proof/Laws/Operations.lean ====
section
/-! SUPPORT. What each shared operation can do: if it answers a next state, one of these cases holds (cited instead of unfolding). -/

namespace Sys2Proof.Machine

/-! ### Response words the core generates itself (R68) -/

@[simp] theorem errorWord_invalidKey : errorWord .invalidKey = 0x10000000#32 := rfl
@[simp] theorem errorWord_notReady : errorWord .notReady = 0x30000000#32 := rfl
@[simp] theorem errorWord_illegal : errorWord .illegal = 0x40000000#32 := rfl

theorem packResponse_eq (status : BitVec 4) (info : BitVec 12) (count : Count) :
    packResponse status info count = packWord status info count := rfl

@[simp] theorem statusField_packResponse (status : BitVec 4) (info : BitVec 12) (count : Count) :
    statusField (packResponse status info count) = status := opField_packWord status info count

@[simp] theorem countField_packResponse (status : BitVec 4) (info : BitVec 12) (count : Count) :
    countField (packResponse status info count) = count := argField_packWord status info count

@[simp] theorem statusField_okWord (n : Count) : statusField (okWord n) = statusOk := statusField_packResponse _ _ _

@[simp] theorem countField_okWord (n : Count) : countField (okWord n) = n := countField_packResponse _ _ _

@[simp] theorem okWord_toNat (n : Count) : (okWord n).toNat = n.toNat := by
  simp [okWord, packResponse_eq, packWord_toNat, statusOk]

/-! ### Errors (R159) -/

@[simp] theorem raise_eq (e : ErrorKind) (s : State) : raise e s = .next (respond (errorWord e) s) := rfl

/-- An operation of the raw generator: accepted in phase GEN, else one `NOT_READY` word (R154). -/
theorem inGen_cases {s t : State} {o : Host.Outcome State Fault Refusal} (h : inGen s o = .next t) :
    (s.phase = .gen ∧ o = .next t) ∨ (s.phase ≠ .gen ∧ t = respond 0x30000000#32 s) := by
  unfold inGen at h
  split at h
  · exact .inl ⟨‹_›, h⟩
  · cases h
    exact .inr ⟨‹_›, rfl⟩

/-! ### Operands (R66, R70) -/

theorem takeKey_cases {l : Nat} {s s' : State} {key : List Byte} (h : takeKey l s = some (key, s')) :
    l ≤ s.key.length ∧ key = s.key.take l ∧ s' = { s with key := s.key.drop l } := by
  unfold takeKey at h
  split at h
  · cases h
    exact ⟨‹_›, rfl, rfl⟩
  · cases h

theorem takeData_eq_none {n : Nat} {s : State} : takeData n s = none ↔ s.sdin.length < n := by
  simp [takeData]

theorem takeData_cases {n : Nat} {s s' : State} {data : List Byte} (h : takeData n s = some (data, s')) :
    n ≤ s.sdin.length ∧ data = s.sdin.take n ∧ s' = { s with sdin := s.sdin.drop n } := by
  unfold takeData at h
  split at h
  · cases h
    exact ⟨‹_›, rfl, rfl⟩
  · cases h

/-! ### Constructions (R90, R110, R151) -/

/-- What a construction can do: `ILLEGAL` for a length no word carries, `INVALID_KEY` for 0, nothing while key beats are missing,
or a new session. -/
theorem construct_cases {p : Phase} {w : Word} {l : KeyLen} {s t : State} (h : construct p w l s = .next t) :
    (256 < l.toNat ∧ t = respond 0x40000000#32 s) ∨
    (l.toNat = 0 ∧ t = respond 0x10000000#32 s) ∨
    (1 ≤ l.toNat ∧ l.toNat ≤ 256 ∧ s.key.length < l.toNat ∧ t = notIssued w s) ∨
    (1 ≤ l.toNat ∧ l.toNat ≤ 256 ∧ l.toNat ≤ s.key.length ∧
      ∃ g, constructed (s.key.take l.toNat) = some g ∧
        t = { s with phase := p, gen := g, key := s.key.drop l.toNat, rsp := s.rsp ++ [0x00000000#32] }) := by
  unfold construct at h
  split at h
  · cases h
    exact .inl ⟨‹_›, rfl⟩
  · rename_i hmax
    simp only [Config.keyMax] at hmax
    split at h
    · cases h
      exact .inr (.inl ⟨‹_›, rfl⟩)
    · split at h
      · rename_i hk
        cases h
        refine .inr (.inr (.inl ⟨by omega, by omega, ?_, rfl⟩))
        by_contra hc
        simp [takeKey, Nat.le_of_not_lt hc] at hk
      · rename_i key s' hk
        obtain ⟨hl, rfl, rfl⟩ := takeKey_cases hk
        split at h
        · rename_i g hg
          cases h
          exact .inr (.inr (.inr ⟨by omega, by omega, hl, g, hg, rfl⟩))
        · cases h

theorem constructed_cases {key : List Byte} {g : Generator} (h : constructed key = some g) :
    keySchedule key = some g.S ∧ g.i = 0#8 ∧ g.j = 0#8 := by
  unfold constructed at h
  split at h
  · cases h
    exact ⟨‹_›, rfl, rfl⟩
  · cases h

/-- One iteration of step 3: the cursor moves on, and the table changes by one swap (R22, R90). -/
theorem scheduleStep_cases {key : List Byte} {p : Nat} {m m' : Memory} {jt jt' : Byte}
    (h : scheduleStep key p m jt = some (m', jt')) :
    ∃ x k, readS m (BitVec.ofNat 8 p) = some x ∧ keyByte key p = some k ∧ jt' = jt + x + k ∧
      swap m (BitVec.ofNat 8 p) jt' = some m' := by
  unfold scheduleStep at h
  split at h
  · rename_i x k hx hk
    simp only at h
    split at h
    · rename_i hs
      cases h
      exact ⟨x, k, hx, hk, rfl, hs⟩
    · cases h
  · cases h

/-! ### The PRGA (R92) -/

/-- What a PRGA step can do: the five steps, each read of an entry that holds a value. -/
theorem prga_cases {g g' : Generator} {out : Byte} (h : prga g = some (out, g')) :
    ∃ x y z, readS g.S (g.i + 1#8) = some x ∧ g'.i = g.i + 1#8 ∧ g'.j = g.j + x ∧
      swap g.S g'.i g'.j = some g'.S ∧ readS g'.S g'.i = some y ∧ readS g'.S g'.j = some z ∧
      readS g'.S (y + z) = some out := by
  unfold prga at h
  simp only [add8] at h
  split at h
  · cases h
  · rename_i x hx
    split at h
    · cases h
    · rename_i m hm
      split at h
      · rename_i y z hy hz
        split at h
        · rename_i o ho
          cases h
          exact ⟨x, y, z, hx, rfl, rfl, hm, hy, hz, ho⟩
        · cases h
      · cases h

@[simp] theorem prgaRun_zero (g : Generator) : prgaRun 0 g = some ([], g) := rfl

theorem prgaRun_succ (n : Nat) (g : Generator) :
    prgaRun (n + 1) g =
      (prga g).bind fun p => (prgaRun n p.2).map fun q => (p.1 :: q.1, q.2) := by
  simp only [prgaRun]
  cases prga g with
  | none => rfl
  | some p => cases hq : prgaRun n p.2 <;> simp [hq]

/-- `n` steps produce `n` bytes. -/
theorem prgaRun_length {n : Nat} {g g' : Generator} {zs : List Byte} (h : prgaRun n g = some (zs, g')) :
    zs.length = n := by
  induction n generalizing g zs with
  | zero => cases h; rfl
  | succ n ih =>
    simp only [prgaRun_succ, Option.bind_eq_some_iff, Option.map_eq_some_iff] at h
    obtain ⟨p, -, q, hq, h⟩ := h
    cases h
    simp [ih hq]

@[simp] theorem xorRun_nil (g : Generator) : xorRun [] g = some ([], g) := rfl

theorem xorRun_cons (d : Byte) (ds : List Byte) (g : Generator) :
    xorRun (d :: ds) g =
      (prga g).bind fun p => (xorRun ds p.2).map fun q => ((d ^^^ p.1) :: q.1, q.2) := by
  simp only [xorRun]
  cases prga g with
  | none => rfl
  | some p => cases hq : xorRun ds p.2 <;> simp [hq, xor8]

/-- XOR in place is the XOR with the bytes of as many PRGA steps (spec/90 C4). -/
theorem xorRun_eq (ds : List Byte) (g : Generator) :
    xorRun ds g = (prgaRun ds.length g).map fun q => (List.zipWith (fun d z => d ^^^ z) ds q.1, q.2) := by
  induction ds generalizing g with
  | nil => rfl
  | cons d ds ih =>
    simp only [xorRun_cons, List.length_cons, prgaRun_succ, ih]
    cases prga g with
    | none => rfl
    | some p => cases hq : prgaRun ds.length p.2 <;> simp [hq]

/-- What a production can do: its bytes delivered, the generator advanced (R93). -/
theorem produce_cases {n : Count} {s t : State} (h : produce n s = .next t) :
    ∃ zs g, prgaRun n.toNat s.gen = some (zs, g) ∧
      t = { s with gen := g, rsp := s.rsp ++ [okWord n], dout := s.dout ++ zs } := by
  unfold produce at h
  split at h
  · rename_i zs g hr
    cases h
    exact ⟨zs, g, hr, rfl⟩
  · cases h

/-! ### The adapter (R111) -/

/-- What a `READ n` whose request has gone out can do: wait while the answer is incomplete, forward an error word, or deliver the
data it was given. -/
theorem takeAnswer_cases {n : Count} {s t : State} (h : takeAnswer n s = .next t) :
    (AnswerIncomplete n s ∧ t = { s with inFlight := some n }) ∨
    (∃ r rest, s.srsp = r :: rest ∧ statusField r ≠ statusOk ∧
      t = { s with srsp := rest, inFlight := none, rsp := s.rsp ++ [r] }) ∨
    (∃ r rest out g, s.srsp = r :: rest ∧ statusField r = statusOk ∧ (countField r).toNat ≤ n.toNat ∧
      (countField r).toNat ≤ s.sdin.length ∧
      xorRun (s.sdin.take (countField r).toNat) s.gen = some (out, g) ∧
      t = { s with gen := g, inFlight := none, rsp := s.rsp ++ [r], dout := s.dout ++ out, srsp := rest,
                   sdin := s.sdin.drop (countField r).toNat }) := by
  unfold takeAnswer at h
  split at h
  · rename_i hr
    cases h
    exact .inl ⟨.inl hr, rfl⟩
  · rename_i r rest hr
    split at h
    · rename_i ha
      cases h
      refine .inr (.inl ⟨r, rest, hr, ?_, rfl⟩)
      intro hc
      simp only [answerOf, hc, ne_eq, not_true_eq_false, if_false] at ha
      split at ha <;> cases ha
    · cases h
    · rename_i count ha
      have hok : statusField r = statusOk ∧ (countField r).toNat ≤ n.toNat ∧ count = (countField r).toNat := by
        simp only [answerOf] at ha
        split at ha
        · cases ha
        · rename_i hs
          split at ha
          · cases ha
            exact ⟨not_not.mp hs, ‹_›, rfl⟩
          · cases ha
      obtain ⟨hs, hn, rfl⟩ := hok
      split at h
      · rename_i data s' hd
        obtain ⟨hl, rfl, rfl⟩ := takeData_cases hd
        unfold transform at h
        split at h
        · rename_i out g hx
          cases h
          exact .inr (.inr ⟨r, rest, out, g, hr, hs, hn, hl, hx, rfl⟩)
        · cases h
      · rename_i hd
        cases h
        exact .inl ⟨.inr ⟨r, rest, hr, hs, hn, (takeData_eq_none.mp hd :)⟩, rfl⟩

/-- Where a `READ n` whose request has gone out faults: an answer `OK` that counts over `n` (R156), or an entry of `S` without a value. -/
theorem takeAnswer_fault_cases {n : Count} {s : State} {f : Fault} (h : takeAnswer n s = .fault f) :
    (f = .sourceOverCount ∧ ∃ r rest, s.srsp = r :: rest ∧ statusField r = statusOk ∧ n.toNat < (countField r).toNat) ∨
    (f = .unwrittenEntry ∧ ∃ count, xorRun (s.sdin.take count) s.gen = none) := by
  unfold takeAnswer at h
  split at h
  · cases h
  · rename_i r rest hr
    split at h
    · cases h
    · rename_i ha
      cases h
      refine .inl ⟨rfl, r, rest, hr, ?_⟩
      simp only [answerOf] at ha
      split at ha
      · cases ha
      · rename_i hs
        split at ha
        · cases ha
        · exact ⟨not_not.mp hs, Nat.lt_of_not_le ‹_›⟩
    · rename_i count _
      split at h
      · rename_i data s' hd
        obtain ⟨-, rfl, rfl⟩ := takeData_cases hd
        unfold transform at h
        split at h
        · cases h
        · cases h
          exact .inr ⟨rfl, count, ‹_›⟩
      · cases h

/-- What a `READ` can do: `NOT_READY` outside ADP, else what taking the answer does after the request (R111, R154). -/
theorem readSource_cases {n : Count} {s t : State} (h : readSource n s = .next t) :
    (s.phase ≠ .adp ∧ t = respond 0x30000000#32 s) ∨
    (s.phase = .adp ∧ takeAnswer n (sendDown (readWord n) s) = .next t) := by
  unfold readSource at h
  split at h
  · exact .inr ⟨‹_›, h⟩
  · cases h
    exact .inl ⟨‹_›, rfl⟩

/-! ### The step (R78, R166, R180, R190) -/

/-- What a step can do: reset, go on with a `READ` in flight, execute the command taken, or idle. -/
theorem step_cases {s : State} {o : Host.Outcome State Fault Refusal} (h : step s = o) :
    (s.resetLine = true ∧ o = .next State.reset) ∨
    (s.resetLine = false ∧ ∃ n, s.inFlight = some n ∧ takeAnswer n s = o) ∨
    (s.resetLine = false ∧ s.inFlight = none ∧ ∃ w rest, s.cmd = w :: rest ∧ exec (decode w) { s with cmd := rest } = o) ∨
    (s.resetLine = false ∧ s.inFlight = none ∧ s.cmd = [] ∧ o = .next s) := by
  unfold step at h
  cases hr : s.resetLine
  · simp only [hr, Bool.false_eq_true, if_false] at h
    cases hf : s.inFlight with
    | some n => exact .inr (.inl ⟨rfl, n, rfl, by simpa [hf, resumeRead] using h⟩)
    | none =>
      simp only [hf, takeCommand] at h
      cases hc : s.cmd with
      | nil => exact .inr (.inr (.inr ⟨rfl, rfl, rfl, by simpa [hc] using h.symm⟩))
      | cons w rest => exact .inr (.inr (.inl ⟨rfl, rfl, w, rest, rfl, by simpa [hc, hr, hf] using h⟩))
  · exact .inl ⟨rfl, by simpa [hr] using h.symm⟩

end Sys2Proof.Machine
end

