-- ==== Sys2Proof/Laws/Instructions.lean ====
section
/-! SUPPORT. What an instruction can do, said once over all of them: if `exec` answers a next state, one of these cases holds. The
pseudo-operation `KEYSTREAM`, a sequence of `FILL`s, is left to an induction over `fillAll`. -/

namespace Sys2Proof.Machine

/-- The effects of an instruction other than `KEYSTREAM`, from a state to the next. -/
inductive Effect (i : Instr) (s t : State) : Prop where
  /-- An error or a refusal: one response word that is not `OK`, and nothing else (R159). -/
  | error (r : Word) (hr : statusField r ≠ statusOk) (ht : t = { s with rsp := s.rsp ++ [r] })
  /-- A construction that is not issued: its word is back on `CMD` (R66). -/
  | wait (w : Word) (l : KeyLen) (hi : i = .init l ∨ i = .ainit l) (hw : encode i = [w])
      (hk : s.key.length < l.toNat) (ht : t = { s with cmd := w :: s.cmd })
  /-- A construction (R90, R110). -/
  | construction (p : Phase) (l : KeyLen) (g : Generator) (hi : (i = .init l ∧ p = .gen) ∨ (i = .ainit l ∧ p = .adp))
      (h1 : 1 ≤ l.toNat) (h2 : l.toNat ≤ 256) (hk : l.toNat ≤ s.key.length)
      (hg : constructed (s.key.take l.toNat) = some g)
      (ht : t = { s with phase := p, gen := g, key := s.key.drop l.toNat, rsp := s.rsp ++ [0x00000000#32] })
  /-- `NEXT` or `FILL` in phase GEN (R92, R93). -/
  | production (n : Count) (zs : List Byte) (g : Generator) (hi : (i = .next ∧ n = 1#16) ∨ i = .fill n)
      (hp : s.phase = .gen) (hg : prgaRun n.toNat s.gen = some (zs, g))
      (ht : t = { s with gen := g, rsp := s.rsp ++ [okWord n], dout := s.dout ++ zs })
  /-- A `READ` that waits for its answer (R190). -/
  | readWaits (n : Count) (hi : i = .read n ∨ i = .encrypt n ∨ i = .decrypt n) (hp : s.phase = .adp)
      (ha : AnswerIncomplete n s) (ht : t = { s with inFlight := some n, scmd := s.scmd ++ [readWord n] })
  /-- A `READ` whose source answers with an error (R113). -/
  | readError (n : Count) (r : Word) (rest : List Word) (hi : i = .read n ∨ i = .encrypt n ∨ i = .decrypt n)
      (hp : s.phase = .adp) (hs : s.srsp = r :: rest) (hr : statusField r ≠ statusOk)
      (ht : t = { s with inFlight := none, scmd := s.scmd ++ [readWord n], srsp := rest, rsp := s.rsp ++ [r] })
  /-- A `READ` whose answer is there (R111). -/
  | readData (n : Count) (r : Word) (rest : List Word) (out : List Byte) (g : Generator)
      (hi : i = .read n ∨ i = .encrypt n ∨ i = .decrypt n) (hp : s.phase = .adp) (hs : s.srsp = r :: rest)
      (hr : statusField r = statusOk) (hn : (countField r).toNat ≤ n.toNat)
      (hl : (countField r).toNat ≤ s.sdin.length)
      (hx : xorRun (s.sdin.take (countField r).toNat) s.gen = some (out, g))
      (ht : t = { s with gen := g, inFlight := none, scmd := s.scmd ++ [readWord n], srsp := rest, rsp := s.rsp ++ [r],
                         dout := s.dout ++ out, sdin := s.sdin.drop (countField r).toNat })

theorem readSource_effect {i : Instr} {n : Count} {s t : State} (hi : i = .read n ∨ i = .encrypt n ∨ i = .decrypt n)
    (h : readSource n s = .next t) : Effect i s t := by
  rcases readSource_cases h with ⟨_, rfl⟩ | ⟨hp, h⟩
  · exact .error 0x30000000#32 (by decide) rfl
  · rcases takeAnswer_cases h with ⟨ha, rfl⟩ | ⟨r, rest, hs, hr, rfl⟩ | ⟨r, rest, out, g, hs, hr, hn, hl, hx, rfl⟩
    · exact .readWaits n hi hp ha rfl
    · exact .readError n r rest hi hp hs hr rfl
    · exact .readData n r rest out g hi hp hs hr hn hl hx rfl

theorem construct_effect {i : Instr} {p : Phase} {w : Word} {l : KeyLen} {s t : State}
    (hi : (i = .init l ∧ p = .gen) ∨ (i = .ainit l ∧ p = .adp)) (hw : encode i = [w])
    (h : construct p w l s = .next t) : Effect i s t := by
  rcases construct_cases h with ⟨_, rfl⟩ | ⟨_, rfl⟩ | ⟨_, _, hk, rfl⟩ | ⟨h1, h2, hk, g, hg, rfl⟩
  · exact .error 0x40000000#32 (by decide) rfl
  · exact .error 0x10000000#32 (by decide) rfl
  · exact .wait w l (hi.imp And.left And.left) hw hk rfl
  · exact .construction p l g hi h1 h2 hk hg rfl

theorem produce_effect {i : Instr} {n : Count} {s t : State} (hi : (i = .next ∧ n = 1#16) ∨ i = .fill n)
    (h : inGen s (produce n s) = .next t) : Effect i s t := by
  rcases inGen_cases h with ⟨hp, h⟩ | ⟨_, rfl⟩
  · obtain ⟨zs, g, hg, rfl⟩ := produce_cases h
    exact .production n zs g hi hp hg rfl
  · exact .error 0x30000000#32 (by decide) rfl

theorem illegal_effect {i : Instr} {s t : State}
    (h : (raise .illegal s : Host.Outcome State Fault Refusal) = .next t) : Effect i s t := by
  cases h
  exact .error 0x40000000#32 (by decide) rfl

/-- What an instruction other than `KEYSTREAM` can do. -/
theorem exec_effect {i : Instr} {s t : State} (hk : ∀ n, i ≠ .keystream n) (h : exec i s = .next t) : Effect i s t := by
  cases i with
  | init l => exact construct_effect (.inl ⟨rfl, rfl⟩) rfl h
  | ainit l => exact construct_effect (.inr ⟨rfl, rfl⟩) rfl h
  | next => exact produce_effect (.inl ⟨rfl, rfl⟩) h
  | fill n => exact produce_effect (.inr rfl) h
  | read n => exact readSource_effect (.inl rfl) h
  | encrypt n => exact readSource_effect (.inr (.inl rfl)) h
  | decrypt n => exact readSource_effect (.inr (.inr rfl)) h
  | keystream n => exact absurd rfl (hk n)
  | reservedOp0 _ => exact illegal_effect h
  | reservedOp6_7 _ _ => exact illegal_effect h
  | reservedOp8_F _ _ => exact illegal_effect h
  | reservedRsv _ _ _ => exact illegal_effect h
  | reservedKeylenInit _ => exact illegal_effect h
  | reservedKeylenAinit _ => exact illegal_effect h
  | reservedNextarg _ => exact illegal_effect h

end Sys2Proof.Machine
end

