-- ==== Sys2Proof/Laws/PerInstr.lean ====
section
/-! SUPPORT. Families of statements about every instruction as syntax, one lemma per constructor of Instr. -/

namespace Sys2Proof.Laws.Expansion

/-- What the assembler puts in place of an instruction holds no pseudo-operation, is as well formed as the instruction, and has
the same command words (R75). -/
def Statement (i : Instr) : Prop :=
  (∀ e ∈ expand i, e.isPseudo = false ∧ (i.wellFormed = true → e.wellFormed = true)) ∧
  (expand i).flatMap encode = encode i

theorem init (l : KeyLen) : Statement (.init l) := by simp [Statement, expand, encode, Instr.isPseudo]
theorem ainit (l : KeyLen) : Statement (.ainit l) := by simp [Statement, expand, encode, Instr.isPseudo]
theorem next : Statement .next := by simp [Statement, expand, encode, Instr.isPseudo]
theorem fill (n : Count) : Statement (.fill n) := by simp [Statement, expand, encode, Instr.isPseudo]
theorem read (n : Count) : Statement (.read n) := by simp [Statement, expand, encode, Instr.isPseudo]
theorem encrypt (n : Count) : Statement (.encrypt n) := by
  simp [Statement, expand, encode, Instr.isPseudo, Instr.wellFormed]
theorem decrypt (n : Count) : Statement (.decrypt n) := by
  simp [Statement, expand, encode, Instr.isPseudo, Instr.wellFormed]
theorem keystream (n : Nat) : Statement (.keystream n) := by
  refine ⟨fun e he => ?_, ?_⟩
  · simp only [expand, List.mem_map] at he
    obtain ⟨c, -, rfl⟩ := he
    exact ⟨rfl, fun _ => rfl⟩
  · simp only [expand, encode]
    induction keystreamCounts n with
    | nil => rfl
    | cons c cs ih => simp_all [encode]
theorem reservedOp0 (arg : BitVec 16) : Statement (.reservedOp0 arg) := by
  simp [Statement, expand, encode, Instr.isPseudo]
theorem reservedOp6_7 (op : BitVec 4) (arg : BitVec 16) : Statement (.reservedOp6_7 op arg) := by
  simp [Statement, expand, encode, Instr.isPseudo]
theorem reservedOp8_F (op : BitVec 4) (arg : BitVec 16) : Statement (.reservedOp8_F op arg) := by
  simp [Statement, expand, encode, Instr.isPseudo]
theorem reservedRsv (op : BitVec 4) (rsv : BitVec 12) (arg : BitVec 16) : Statement (.reservedRsv op rsv arg) := by
  simp [Statement, expand, encode, Instr.isPseudo]
theorem reservedKeylenInit (arg : BitVec 16) : Statement (.reservedKeylenInit arg) := by
  simp [Statement, expand, encode, Instr.isPseudo]
theorem reservedKeylenAinit (arg : BitVec 16) : Statement (.reservedKeylenAinit arg) := by
  simp [Statement, expand, encode, Instr.isPseudo]
theorem reservedNextarg (arg : BitVec 16) : Statement (.reservedNextarg arg) := by
  simp [Statement, expand, encode, Instr.isPseudo]

end Sys2Proof.Laws.Expansion
end

