-- ==== Sys2Proof/Tests/Slice0.lean ====
section
/-! SUPPORT. The model's own tests: well-formedness, decoding (spec/95 V21), one step each against the spec's worked vectors
(spec/95 S1 to S6, V1 to V24), and a witness for the hypotheses of every statement. -/

namespace Sys2Proof.Tests

open Sys2Proof.Machine

/-! ### Well-formedness: an ill-formed term for each check -/

theorem test_wf_init : (Instr.init 256#9).wellFormed = true ∧ (Instr.init 257#9).wellFormed = false := by decide
theorem test_wf_ainit : (Instr.ainit 256#9).wellFormed = true ∧ (Instr.ainit 511#9).wellFormed = false := by decide
theorem test_wf_reservedOp6_7 :
    (Instr.reservedOp6_7 7#4 0#16).wellFormed = true ∧ (Instr.reservedOp6_7 8#4 0#16).wellFormed = false ∧
    (Instr.reservedOp6_7 5#4 0#16).wellFormed = false := by decide
theorem test_wf_reservedOp8_F :
    (Instr.reservedOp8_F 8#4 0#16).wellFormed = true ∧ (Instr.reservedOp8_F 7#4 0#16).wellFormed = false := by decide
theorem test_wf_reservedRsv :
    (Instr.reservedRsv 1#4 1#12 3#16).wellFormed = true ∧ (Instr.reservedRsv 1#4 0#12 3#16).wellFormed = false := by decide
theorem test_wf_reservedKeylenInit :
    (Instr.reservedKeylenInit 257#16).wellFormed = true ∧ (Instr.reservedKeylenInit 256#16).wellFormed = false := by decide
theorem test_wf_reservedKeylenAinit :
    (Instr.reservedKeylenAinit 257#16).wellFormed = true ∧ (Instr.reservedKeylenAinit 256#16).wellFormed = false := by decide
theorem test_wf_reservedNextarg :
    (Instr.reservedNextarg 1#16).wellFormed = true ∧ (Instr.reservedNextarg 0#16).wellFormed = false := by decide

/-! ### Decoding: words written out from R61 to R65 and R71 as `OOOO RRRR RRRR RRRR AAAA AAAA AAAA AAAA` -/

theorem test_decode_init : decode 0b0001_0000_0000_0000_0000_0000_0000_0011#32 = .init 3#9 := by decide
theorem test_decode_init_longest : decode 0b0001_0000_0000_0000_0000_0001_0000_0000#32 = .init 256#9 := by decide
theorem test_decode_ainit : decode 0b0010_0000_0000_0000_0000_0000_0000_0110#32 = .ainit 6#9 := by decide
theorem test_decode_next : decode 0b0011_0000_0000_0000_0000_0000_0000_0000#32 = .next := by decide
theorem test_decode_fill : decode 0b0100_0000_0000_0000_0000_0000_0000_1010#32 = .fill 10#16 := by decide
theorem test_decode_read : decode 0b0101_0000_0000_0000_0000_0000_0000_1001#32 = .read 9#16 := by decide
theorem test_decode_reservedOp0 : decode 0b0000_0000_0000_0000_0000_0000_0000_0001#32 = .reservedOp0 1#16 := by decide
theorem test_decode_reservedOp6_7 :
    decode 0b0111_0000_0000_0000_0000_0000_0000_0000#32 = .reservedOp6_7 7#4 0#16 := by decide
theorem test_decode_reservedOp8_F :
    decode 0b1000_0000_0000_0000_0000_0000_0000_0000#32 = .reservedOp8_F 8#4 0#16 := by decide
/-- RSV bit 27 set: RESERVED.RSV before the READ row. -/
theorem test_decode_reservedRsv :
    decode 0b0101_1000_0000_0000_0000_0000_0000_1001#32 = .reservedRsv 5#4 0x800#12 9#16 := by decide
theorem test_decode_reservedKeylenInit :
    decode 0b0001_0000_0000_0000_0000_0001_0000_0001#32 = .reservedKeylenInit 257#16 := by decide
theorem test_decode_reservedKeylenAinit :
    decode 0b0010_0000_0000_0000_0000_0010_0000_0000#32 = .reservedKeylenAinit 512#16 := by decide
theorem test_decode_reservedNextarg :
    decode 0b0011_0000_0000_0000_0000_0000_0000_0001#32 = .reservedNextarg 1#16 := by decide
/-- The pseudo-operations have the words of what they expand to (R75). -/
theorem test_encode_pseudo :
    encode (.encrypt 9#16) = [0x50000009#32] ∧ encode (.decrypt 9#16) = [0x50000009#32] ∧
    encode (.keystream 131075) = [0x4000FFFF#32, 0x4000FFFF#32, 0x40000005#32] := by decide
theorem test_decodeTableWord :
    decodeTableWord 32 0x4000000A = some (.fill 10#16) ∧ decodeTableWord 33 0x4000000A = none := by decide

/-! ### States -/

/-- A core with the identity table, as the key of V5 leaves it (spec/95), in a phase. -/
def withIdentity (p : Phase) : State := { State.reset with phase := p, gen := { S := identityTable, i := 0#8, j := 0#8 } }

/-- The reference generator of the identity table. -/
def idRef : RefGen := { table := fun a => a, i := 0#8, j := 0#8 }

/-- A projection of the next state. -/
def nextOf {α : Type} (o : Host.Outcome State Fault Refusal) (f : State → α) : Option α :=
  match o with
  | .next s => some (f s)
  | .fault _ => none
  | .refused _ => none

/-- The outcome is a fault. -/
def faults (o : Host.Outcome State Fault Refusal) : Option Fault :=
  match o with
  | .fault f => some f
  | .next _ => none
  | .refused _ => none

theorem exists_next {o : Host.Outcome State Fault Refusal} (h : (nextOf o fun _ => ()).isSome = true) :
    ∃ t, o = .next t := by
  cases o with
  | next s => exact ⟨s, rfl⟩
  | fault _ => cases h
  | refused _ => cases h

theorem withIdentity_represents (p : Phase) : Represents (withIdentity p).gen idRef :=
  ⟨fun a => readS_identityTable a, rfl, rfl⟩

theorem withIdentity_full (p : Phase) : Full (withIdentity p).gen.S := fun a => ⟨a, readS_identityTable a⟩

theorem withIdentity_permutation (p : Phase) : IsPermutation (withIdentity p).gen.S :=
  ⟨withIdentity_full p, fun v => ⟨v, readS_identityTable v, fun b hb => by
    have := (readS_identityTable b).symm.trans hb
    exact Option.some.inj this⟩⟩

theorem withIdentity_inv (p : Phase) (h : p ≠ .unkeyed) : Inv (withIdentity p) :=
  ⟨identityTable_wf, fun hp => absurd hp h, fun _ => withIdentity_permutation p, fun hf => absurd rfl hf⟩

/-! ### Arithmetic (V24) and memory -/

theorem test_add8 : add8 0xF9#8 0xA8#8 = 0xA1#8 ∧ add8 0xFF#8 0xFF#8 = 0xFE#8 ∧ xor8 0x50#8 0xEB#8 = 0xBB#8 := by decide
theorem test_keyByte :
    keyByte [10#8, 11#8, 12#8] 254 = some 12#8 ∧ keyByte [10#8, 11#8, 12#8] 255 = some 10#8 := by decide
theorem test_swap_self : swap identityTable 7#8 7#8 = some identityTable := by decide +kernel

/-! ### Constructions (V1, V6) -/

/-- V1: the first eight iterations of the schedule of "Key"; `jt` is 1E after them. -/
theorem test_schedule_key :
    (scheduleFrom [0x4B#8, 0x65#8, 0x79#8] (List.range 8) identityTable 0#8).map (fun m => m.take 8) =
      some [(0, 0x4B#8), (1, 0xB1#8), (2, 0x2C#8), (3, 0x7A#8), (4, 0xE3#8), (5, 0x61#8), (6, 0xB2#8), (7, 0x1E#8)] := by
  decide +kernel

/-- S1, V7: the whole schedule of "Key", and the first keystream byte EB after it. -/
theorem test_first_byte_of_key :
    ((constructed [0x4B#8, 0x65#8, 0x79#8]).bind prga).map (fun p => (p.1, p.2.i, p.2.j)) =
      some (0xEB#8, 0x01#8, 0x33#8) := by
  decide +kernel

/-- V6: `INIT` with L = 0 in a running session is `INVALID_KEY` and the session stays. -/
theorem test_init_empty_key :
    nextOf (exec (.init 0#9) (withIdentity .adp)) (fun s => (s.rsp, s.phase)) = some ([0x10000000#32], .adp) := by
  decide +kernel

/-- R188: with a key beat missing the word stays on `CMD`. -/
theorem test_ainit_waits_for_key :
    nextOf (step { State.reset with cmd := [0x20000002#32], key := [1#8] }) (fun s => (s.cmd, s.key, s.rsp, s.phase)) =
      some ([0x20000002#32], [1#8], [], .unkeyed) := by
  decide

/-! ### The raw generator (V11, V12, V15) -/

/-- V11: the first step from the identity table, i = j. -/
theorem test_next_identity :
    nextOf (exec .next (withIdentity .gen)) (fun s => (s.rsp, s.dout, s.gen.i, s.gen.j)) =
      some ([0x00000001#32], [0x02#8], 0x01#8, 0x01#8) := by
  decide +kernel

/-- V12: `NEXT` in phase ADP is refused. -/
theorem test_next_not_ready :
    nextOf (step { State.reset with cmd := [0x30000000#32] }) (fun s => (s.rsp, s.dout)) = some ([0x30000000#32], []) := by
  decide

/-- V11: five bytes from the identity table, and an exchange seen by the next step. -/
theorem test_fill_identity :
    nextOf (exec (.fill 5#16) (withIdentity .gen))
        (fun s => (s.rsp, s.dout, s.gen.i, s.gen.j, readS s.gen.S 0x0B#8)) =
      some ([0x00000005#32], [0x02#8, 0x05#8, 0x07#8, 0x0D#8, 0x0D#8], 0x05#8, 0x0B#8, some 0x02#8) := by
  decide +kernel

/-- V15: `FILL 0` delivers nothing and changes nothing. -/
theorem test_fill_zero :
    nextOf (exec (.fill 0#16) (withIdentity .gen)) (fun s => (s.rsp, s.dout, s.gen.i)) =
      some ([0x00000000#32], [], 0#8) := by
  decide +kernel

/-- By hand from R92: `i` wraps to 0, `j` = 05 + S[00] = 05, S[00] and S[05] are exchanged, k = 05 + 00 = 05, and S[05] is now 00
(R92 a and c). -/
theorem test_next_wraps :
    nextOf (exec .next { withIdentity .gen with gen := { S := identityTable, i := 0xFF#8, j := 0x05#8 } })
        (fun s => (s.gen.i, s.gen.j, s.dout)) =
      some (0x00#8, 0x05#8, [0x00#8]) := by
  decide +kernel

/-- R75: `KEYSTREAM 2` is `FILL 2`; V11's first two bytes. -/
theorem test_keystream_short :
    nextOf (exec (.keystream 2) (withIdentity .gen)) (fun s => (s.rsp, s.dout)) =
      some ([0x00000002#32], [0x02#8, 0x05#8]) := by
  decide +kernel

/-! ### The adapter (V17 to V20) -/

/-- A partial read over the identity table: 3 of 9 bytes; keystream 02 05 07 (V11). -/
theorem test_read_partial :
    nextOf (exec (.read 9#16) (sourceAnswers 0x00000003#32 [0x50#8, 0x6C#8, 0x61#8] (withIdentity .adp)))
        (fun s => (s.rsp, s.dout, s.scmd, s.gen.i, s.sdin)) =
      some ([0x00000003#32], [0x52#8, 0x69#8, 0x66#8], [0x50000009#32], 0x03#8, []) := by
  decide +kernel

/-- V18: a source's error word is forwarded, its beats and the keystream untouched. -/
theorem test_read_source_error :
    nextOf (exec (.read 5#16) (sourceAnswers 0x2ABC0000#32 [0x11#8] (withIdentity .adp)))
        (fun s => (s.rsp, s.dout, s.gen.i, s.sdin)) =
      some ([0x2ABC0000#32], [], 0#8, [0x11#8]) := by
  decide +kernel

/-- V19: an answer of 5 bytes to `READ 4` faults. -/
theorem test_read_over_count :
    faults (exec (.read 4#16) (sourceAnswers 0x00000005#32 [1#8, 2#8, 3#8, 4#8, 5#8] (withIdentity .adp))) =
      some .sourceOverCount := by
  decide +kernel

/-- V19: `READ 0` still asks the source; `READ` in phase GEN does not. -/
theorem test_read_zero :
    nextOf (exec (.read 0#16) (sourceAnswers 0x00000000#32 [] (withIdentity .adp))) (fun s => (s.rsp, s.scmd)) =
        some ([0x00000000#32], [0x50000000#32]) ∧
      nextOf (exec (.read 4#16) (withIdentity .gen)) (fun s => (s.rsp, s.scmd)) = some ([0x30000000#32], []) := by
  decide +kernel

theorem test_encrypt_decrypt :
    nextOf (exec (.encrypt 1#16) (sourceAnswers 0x00000001#32 [0x50#8] (withIdentity .adp))) (fun s => s.dout) =
        some [0x52#8] ∧
      nextOf (exec (.decrypt 1#16) (sourceAnswers 0x00000001#32 [0x52#8] (withIdentity .adp))) (fun s => s.dout) =
        some [0x50#8] := by
  decide +kernel

/-- A `READ` with no answer waits and holds the port; the answer completes it without a second request. -/
theorem test_read_waits :
    nextOf (exec (.read 2#16) (withIdentity .adp)) (fun s => (s.inFlight, s.scmd, s.rsp)) =
        some (some 2#16, [0x50000002#32], []) ∧
      nextOf (step { withIdentity .adp with inFlight := some 2#16, srsp := [0x00000001#32], sdin := [0x00#8] })
          (fun s => (s.inFlight, s.scmd, s.rsp, s.dout)) =
        some (none, [], [0x00000001#32], [0x02#8]) := by
  decide +kernel

/-! ### Errors and reset (V23) -/

/-- V23: `INIT` with L = 0 and RSV not zero is `ILLEGAL`, not `INVALID_KEY`; no key beat is taken. -/
theorem test_illegal_before_key :
    nextOf (step { State.reset with cmd := [0x10010000#32], key := [7#8] }) (fun s => (s.rsp, s.key)) =
      some ([0x40000000#32], [7#8]) := by
  decide

theorem test_reserved_rows :
    nextOf (exec (.reservedOp0 0#16) State.reset) (fun s => s.rsp) = some [0x40000000#32] ∧
    nextOf (exec (.reservedKeylenInit 257#16) State.reset) (fun s => s.rsp) = some [0x40000000#32] ∧
    nextOf (exec (.reservedNextarg 1#16) (withIdentity .gen)) (fun s => s.rsp) = some [0x40000000#32] := by
  decide +kernel

theorem test_reset_event :
    nextOf (step { withIdentity .adp with resetLine := true, inFlight := some 3#16, cmd := [0x30000000#32], rsp := [0#32] })
        (fun s => (s.phase, readS s.gen.S 7#8, s.inFlight, s.cmd ++ s.rsp)) =
      some (.unkeyed, none, none, []) := by
  decide +kernel

theorem test_withFetchWord :
    nextOf (step (State.reset.withFetchWord 32 0x60000000)) (fun s => (s.cmd, s.rsp)) = some ([], [0x40000000#32]) ∧
    (State.reset.withFetchWord 32 0x10000003).key = [0#8, 0#8, 0#8] := by
  decide

/-! ### The host's and the source's ends (R74, R117) -/

theorem test_parse_init :
    parseLine ['I', 'N', 'I', 'T', ' ', 'x', '4', 'B', '6', '5', '7', '9', ' ', ';', ' ', 'k'] =
      some (.init [0x4B#8, 0x65#8, 0x79#8]) := by
  decide

theorem test_parse_fill :
    parseLine ['F', 'I', 'L', 'L', ' ', '0', 'x', '0', 'A'] = some (.fill 10#16) ∧
    parseLine ['F', 'I', 'L', 'L', ' ', '6', '5', '5', '3', '6'] = none := by
  decide

/-- P3 of spec/95: a program with lines that hold only a comment or nothing; a line that follows no form spoils it. -/
theorem test_parse_program :
    parseProgram [[';', ' ', 't', 'o', ' ', 'A'], ['R', 'E', 'A', 'D', ' ', '8'], [], [' ', '\t'], ['N', 'E', 'X', 'T', ';']] =
      some [.read 8#16, .next] ∧
    parseProgram [['R', 'E', 'A', 'D', ' ', '8'], ['P', 'E', 'E', 'K']] = none := by
  decide

theorem test_issue_init :
    (issueLine (.init [0x4B#8, 0x65#8, 0x79#8]) State.reset).cmd = [0x10000003#32] ∧
    (issueLine (.init [0x4B#8, 0x65#8, 0x79#8]) State.reset).key = [0x4B#8, 0x65#8, 0x79#8] := by
  decide

/-! ### Witnesses: states and operands that meet the hypotheses of each statement -/

theorem witness_DecodeOfEncodeIsExpansion : (Instr.init 256#9).wellFormed = true := by decide

theorem witness_DecodeFollowsTheFields :
    rsvNumber 0x50010009#32 ≠ 0 ∧
    (rsvNumber 0x10000100#32 = 0 ∧ opNumber 0x10000100#32 = 1 ∧ argNumber 0x10000100#32 = 256) ∧
    (rsvNumber 0x20000100#32 = 0 ∧ opNumber 0x20000100#32 = 2 ∧ argNumber 0x20000100#32 = 256) ∧
    (rsvNumber 0x30000000#32 = 0 ∧ opNumber 0x30000000#32 = 3 ∧ argNumber 0x30000000#32 = 0) ∧
    (rsvNumber 0x4000FFFF#32 = 0 ∧ opNumber 0x4000FFFF#32 = 4) ∧
    (rsvNumber 0x5000FFFF#32 = 0 ∧ opNumber 0x5000FFFF#32 = 5) ∧
    (opNumber 0x10000101#32 = 1 ∧ argNumber 0x10000101#32 = 257) ∧
    ((Instr.fill 65535#16).wellFormed = true ∧ (Instr.fill 65535#16).isPseudo = false ∧
      (Instr.fill 65535#16).isReserved = false) := by
  decide

/-- A ready core with one command word. -/
def withCommand (w : Word) (s : State) : State := { s with cmd := [w] }

theorem witness_ReservedWordsAnswerIllegal :
    Ready (withCommand 0x60000000#32 State.reset) ∧ (withCommand 0x60000000#32 State.reset).cmd = 0x60000000#32 :: [] ∧
    isReservedWord 0x60000000#32 = true ∧ isReservedWord 0x10000101#32 = true ∧ isReservedWord 0x30000001#32 = true ∧
    isReservedWord 0x10000100#32 = false := by
  refine ⟨⟨rfl, rfl⟩, rfl, ?_⟩
  decide

theorem witness_PseudoOperationsExpand :
    65535 < 65536 ∧ (withIdentity .gen).phase = .gen ∧ Represents (withIdentity .gen).gen idRef :=
  ⟨by decide, rfl, withIdentity_represents _⟩

/-- A core with one key byte on `KEY`. -/
def withKey (k : List Byte) (s : State) : State := { s with key := k }

/-- For `InitStartsGeneratorSession`, `AinitStartsAdapterSession`, `PermutationIsKept` and the last clause of
`AcceptanceByPhase`: both ends of the range of L. -/
theorem witness_Constructions :
    (0#9).toNat = 0 ∧
    (1 ≤ (1#9).toNat ∧ (1#9).toNat ≤ 256 ∧ (1#9).toNat ≤ (withKey [0#8] State.reset).key.length) ∧
    (1 ≤ (256#9).toNat ∧ (256#9).toNat ≤ 256 ∧
      (256#9).toNat ≤ (withKey (List.replicate 256 0#8) State.reset).key.length) := by
  decide +kernel

theorem witness_KeyBeatsMatchTheLength :
    Ready (withCommand 0x10000002#32 (withKey [0#8] State.reset)) ∧
    decode 0x10000002#32 = .init 2#9 ∧ decode 0x20000001#32 = .ainit 1#9 ∧ decode 0x10000000#32 = .init 0#9 ∧
    (withKey [0#8] State.reset).key.length < (2#9).toNat ∧
    (1 ≤ (1#9).toNat ∧ (1#9).toNat ≤ (withKey [0#8] State.reset).key.length) ∧
    isReservedWord 0x10000101#32 = true := by
  refine ⟨⟨rfl, rfl⟩, ?_⟩
  decide

/-- Two different keys with the same sequence key[p mod L]: one byte, and the same byte twice (R98). -/
theorem witness_SameKeySequenceSameGenerator :
    (∀ p, p < 256 → keyByte [0xFF#8] p = keyByte [0xFF#8, 0xFF#8] p) ∧
    (1 ≤ (1#9).toNat ∧ (1#9).toNat ≤ 256 ∧ 1 ≤ (2#9).toNat ∧ (2#9).toNat ≤ 256 ∧
      (1#9).toNat ≤ (withKey [0xFF#8] State.reset).key.length ∧
      (2#9).toNat ≤ (withKey [0xFF#8, 0xFF#8] State.reset).key.length) := by
  decide +kernel

theorem witness_LongKeyUsesFirst256Bytes : 256 < (List.replicate 257 0#8 : List Byte).length := by
  rw [List.length_replicate]; decide

theorem witness_UnkeyedContentsCannotBeObserved :
    (withCommand 0x10000001#32 (withKey [5#8] State.reset)).phase = .unkeyed ∧
    (withCommand 0x10000001#32 (withKey [5#8] State.reset)).inFlight = none := ⟨rfl, rfl⟩

/-- For `NextDeliversOneByte`, `FillDeliversNBytes`, `KeystreamCompletes` and `FillIsRepeatedNext`. -/
theorem witness_GeneratorOperations :
    (withIdentity .gen).phase = .gen ∧ Represents (withIdentity .gen).gen idRef ∧ Full (withIdentity .gen).gen.S ∧
    (withIdentity .adp).phase ≠ .gen ∧ State.reset.phase ≠ .gen ∧ (32767#16).toNat + (32768#16).toNat ≤ 65535 :=
  ⟨rfl, withIdentity_represents .gen, withIdentity_full .gen, by decide, by decide, by decide⟩

theorem witness_CursorICountsTheBytes : ([0x00#8] : List Byte) ≠ [] := by decide

/-- An adapter whose source has answered. -/
def withAnswer (r : Word) (bytes : List Byte) : State := sourceAnswers r bytes (withIdentity .adp)

/-- For `ReadTransformsTheAnswer`: a full and a partial answer, an error word, a core that is no adapter. -/
theorem witness_ReadTransformsTheAnswer :
    (withAnswer 0x00000002#32 [1#8, 2#8]).phase = .adp ∧
    Represents (withAnswer 0x00000002#32 [1#8, 2#8]).gen idRef ∧
    (withAnswer 0x00000002#32 [1#8, 2#8]).srsp = 0x00000002#32 :: [] ∧ statusField 0x00000002#32 = 0x0#4 ∧
    (countField 0x00000002#32).toNat ≤ (2#16).toNat ∧ (countField 0x00000002#32).toNat ≤ (9#16).toNat ∧
    (countField 0x00000002#32).toNat ≤ (withAnswer 0x00000002#32 [1#8, 2#8]).sdin.length ∧
    statusField 0x2ABC0000#32 ≠ 0x0#4 ∧ (withIdentity .gen).phase ≠ .adp :=
  ⟨rfl, withIdentity_represents .adp, rfl, by decide, by decide, by decide, by decide, by decide, by decide⟩

/-- For `SourceErrorPassesUnchanged` and `EndOfStreamPasses`: at the request, and while the core waits. -/
theorem witness_SourceErrorAndEndOfStream :
    (withAnswer 0xF0000001#32 []).srsp = 0xF0000001#32 :: [] ∧ statusField 0xF0000001#32 ≠ 0x0#4 ∧
    (withAnswer 0xF0000001#32 []).phase = .adp ∧ (withAnswer 0xF0000001#32 []).resetLine = false ∧
    ({ withAnswer 0xF0000001#32 [] with inFlight := some 4#16 } : State).inFlight = some 4#16 ∧
    ((withAnswer 0x00000000#32 []).srsp = 0x00000000#32 :: [] ∧ statusField 0x00000000#32 = 0x0#4 ∧
      countField 0x00000000#32 = 0x0000#16 ∧ countField 0x0ABC0000#32 = 0x0000#16) :=
  ⟨rfl, by decide, rfl, rfl, rfl, rfl, by decide, by decide, by decide⟩

theorem witness_OverCountFaults :
    (withAnswer 0x00000005#32 []).srsp = 0x00000005#32 :: [] ∧ statusField 0x00000005#32 = 0x0#4 ∧
    (4#16).toNat < (countField 0x00000005#32).toNat ∧ (withAnswer 0x00000005#32 []).phase = .adp ∧
    ({ withAnswer 0x00000005#32 [] with inFlight := some 4#16 } : State).inFlight = some 4#16 :=
  ⟨rfl, by decide, by decide, rfl, rfl⟩

/-- For `IncompleteAnswerWaits`: no answer, and an answer with a beat missing; at the request, and while the core waits. -/
theorem witness_IncompleteAnswerWaits :
    AnswerIncomplete 2#16 (withIdentity .adp) ∧ AnswerIncomplete 2#16 (withAnswer 0x00000002#32 [1#8]) ∧
    (withIdentity .adp).phase = .adp ∧ (withAnswer 0x00000002#32 [1#8]).phase = .adp ∧
    ({ withIdentity .adp with inFlight := some 2#16 } : State).inFlight = some 2#16 ∧
    (withIdentity .adp).resetLine = false :=
  ⟨.inl rfl, .inr ⟨_, _, rfl, by decide, by decide, by decide⟩, rfl, rfl, rfl, rfl⟩

theorem witness_LateAnswerSameAsEarly :
    (withIdentity .adp).phase = .adp ∧ (withIdentity .adp).resetLine = false ∧ (withIdentity .adp).srsp = [] :=
  ⟨rfl, rfl, rfl⟩

/-- A script with a partial read, an error, and end-of-stream (V17, V18). -/
def sampleScript : List ReadStep :=
  [{ n := 4#16, answer := 0x00000002#32, data := [1#8, 2#8] },
   { n := 4#16, answer := 0x2ABC0000#32, data := [] },
   { n := 1#16, answer := 0x00000001#32, data := [3#8] },
   { n := 4#16, answer := 0x00000000#32, data := [] }]

theorem sampleScript_kept : ∀ q ∈ sampleScript, q.kept := by
  intro q hq
  simp only [sampleScript, List.mem_cons, List.not_mem_nil, or_false] at hq
  rcases hq with rfl | rfl | rfl | rfl <;> exact ⟨by decide, by decide⟩

/-- For `PartialReadsDeliverTheWhole` and `RoundTripThroughTwoCores`. -/
theorem witness_Scripts :
    AdapterAtRest (withIdentity .adp) ∧ Represents (withIdentity .adp).gen idRef ∧ (withIdentity .adp).rsp = [] ∧
    (withIdentity .adp).dout = [] ∧ (∀ q ∈ sampleScript, q.kept) :=
  ⟨⟨rfl, ⟨rfl, rfl⟩, rfl, rfl, rfl, rfl⟩, withIdentity_represents _, rfl, rfl, sampleScript_kept⟩

theorem witness_ZeroDataDeliverTheKeystream :
    (withAnswer 0x00000002#32 [0#8, 0#8]).phase = .adp ∧ Full (withAnswer 0x00000002#32 [0#8, 0#8]).gen.S ∧
    (withAnswer 0x00000002#32 [0#8, 0#8]).srsp = wordOf 0 (2#16).toNat :: [] ∧ (2#16).toNat ≤ (2#16).toNat ∧
    (2#16).toNat ≤ (withAnswer 0x00000002#32 [0#8, 0#8]).sdin.length ∧
    (withAnswer 0x00000002#32 [0#8, 0#8]).sdin.take (2#16).toNat = List.replicate (2#16).toNat 0x00#8 :=
  ⟨rfl, withIdentity_full .adp, rfl, le_refl _, by decide, rfl⟩

theorem witness_DataDoNotInfluenceTheGenerator :
    ([7#8] : List Byte).length = (withAnswer 0x00000001#32 [9#8]).sdin.length ∧
    ∃ t, exec (.read 1#16) (withAnswer 0x00000001#32 [9#8]) = .next t :=
  ⟨rfl, exists_next (by decide +kernel)⟩

theorem witness_AcceptanceByPhase :
    State.reset.phase ≠ .gen ∧ State.reset.phase ≠ .adp ∧ (withIdentity .gen).phase = .gen ∧
    Full (withIdentity .gen).gen.S ∧ (withIdentity .adp).phase = .adp ∧ (withIdentity .adp).srsp = [] :=
  ⟨by decide, by decide, rfl, withIdentity_full _, rfl, rfl⟩

theorem witness_TestsInOrder :
    Ready (withCommand 0x30000000#32 State.reset) ∧ isReservedWord 0x30000001#32 = true ∧
    (isReservedWord 0x30000000#32 = false ∧ opNumber 0x30000000#32 = 3 ∧ State.reset.phase ≠ .gen) ∧
    (isReservedWord 0x50000004#32 = false ∧ opNumber 0x50000004#32 = 5 ∧ (withIdentity .gen).phase ≠ .adp) ∧
    (isReservedWord 0x10000000#32 = false ∧ opNumber 0x10000000#32 = 1 ∧ argNumber 0x10000000#32 = 0) ∧
    ((withAnswer 0x30000000#32 []).phase = .adp ∧ (withAnswer 0x30000000#32 []).srsp = 0x30000000#32 :: [] ∧
      statusField 0x30000000#32 ≠ 0x0#4) := by
  refine ⟨⟨rfl, rfl⟩, by decide, by decide, by decide, by decide, rfl, rfl, by decide⟩

/-- For `ErrorsChangeNothingElse`. -/
theorem witness_ErrorsChangeNothingElse :
    ∃ t, step (withCommand 0x10000000#32 (withIdentity .gen)) = .next t ∧
      t.rsp = (withCommand 0x10000000#32 (withIdentity .gen)).rsp ++ [0x10000000#32] ∧
      statusField 0x10000000#32 ≠ 0x0#4 :=
  ⟨{ withIdentity .gen with cmd := [], rsp := [0x10000000#32] }, rfl, rfl, by decide⟩

/-- For `OneResponsePerCommand`: a command that completes, a construction that waits, a `READ` that waits, and one in flight. -/
theorem witness_OneResponsePerCommand :
    (Ready (withCommand 0x30000000#32 (withIdentity .gen)) ∧
      ∃ t, step (withCommand 0x30000000#32 (withIdentity .gen)) = .next t) ∧
    (∃ t, step (withCommand 0x10000001#32 State.reset) = .next t) ∧
    (∃ t, step (withCommand 0x50000001#32 (withIdentity .adp)) = .next t) ∧
    (({ withAnswer 0x00000000#32 [] with inFlight := some 4#16 } : State).resetLine = false ∧
      ∃ t, step { withAnswer 0x00000000#32 [] with inFlight := some 4#16 } = .next t) :=
  ⟨⟨⟨rfl, rfl⟩, exists_next (by decide +kernel)⟩, exists_next (by decide +kernel), exists_next (by decide +kernel), rfl,
    exists_next (by decide +kernel)⟩

/-- For `ResponseCountFramesTheOutput`, `OnlyReadWordsGoDownstream`, `EveryStepKeepsTheInvariant` and the last two clauses of
`PermutationIsKept`. -/
theorem witness_Steps :
    Inv (withCommand 0x50000001#32 (withAnswer 0x00000001#32 [9#8])) ∧
    (withCommand 0x50000001#32 (withAnswer 0x00000001#32 [9#8])).resetLine = false ∧
    (∃ t, step (withCommand 0x50000001#32 (withAnswer 0x00000001#32 [9#8])) = .next t) ∧
    IsPermutation (withIdentity .gen).gen.S ∧ (∃ t, exec .next (withIdentity .gen) = .next t) :=
  ⟨withIdentity_inv .adp (by decide), rfl, exists_next (by decide +kernel), withIdentity_permutation _,
    exists_next (by decide +kernel)⟩

/-- For `OnlyTheSourceCanFault`: two states of the invariant whose step faults, at the request and in flight. -/
theorem witness_OnlyTheSourceCanFault :
    (Inv (withCommand 0x50000001#32 (withAnswer 0x00000005#32 [])) ∧
      step (withCommand 0x50000001#32 (withAnswer 0x00000005#32 [])) = .fault .sourceOverCount) ∧
    (Inv { withAnswer 0x00000005#32 [] with inFlight := some 4#16 } ∧
      step { withAnswer 0x00000005#32 [] with inFlight := some 4#16 } = .fault .sourceOverCount) :=
  ⟨⟨withIdentity_inv .adp (by decide), rfl⟩,
    ⟨identityTable_wf, fun hp => absurd hp (by decide), fun _ => withIdentity_permutation .adp, fun _ => rfl⟩, rfl⟩

theorem witness_ResetEventAbandonsEverything : ({ withIdentity .adp with resetLine := true } : State).resetLine = true := rfl

/-- For `PhaseWrittenOnlyByResetAndConstructions`: the reset event changes the phase. -/
theorem witness_PhaseWrittenByReset :
    ∃ t, step { withIdentity .adp with resetLine := true } = .next t ∧ t.phase ≠ (withIdentity .adp).phase :=
  ⟨State.reset, rfl, by decide⟩

theorem construct_takes_key :
    nextOf (step (withCommand 0x10000001#32 (withKey [0#8] State.reset))) (fun t => (t.phase, t.key)) =
      some (.gen, []) := by
  decide +kernel

/-- For `PhaseWrittenOnlyByResetAndConstructions` and `KeyTakenOnlyByConstructions`: a construction changes the phase and takes
its key. -/
theorem witness_ConstructionWritesPhaseAndTakesKey :
    (withCommand 0x10000001#32 (withKey [0#8] State.reset)).resetLine = false ∧
    ∃ t, step (withCommand 0x10000001#32 (withKey [0#8] State.reset)) = .next t ∧
      t.phase ≠ State.reset.phase ∧ t.key ≠ [0#8] := by
  refine ⟨rfl, ?_⟩
  have h := construct_takes_key
  revert h
  cases step (withCommand 0x10000001#32 (withKey [0#8] State.reset)) with
  | next t =>
    intro h
    simp only [nextOf, Option.some.injEq, Prod.mk.injEq] at h
    exact ⟨t, rfl, by rw [h.1]; decide, by rw [h.2]; decide⟩
  | fault _ => intro h; cases h
  | refused _ => intro h; cases h

theorem witness_StepRunsTheDecodedInstruction :
    (Ready (withCommand 0x4000000A#32 (withIdentity .gen)) ∧
      (withCommand 0x4000000A#32 (withIdentity .gen)).cmd = 0x4000000A#32 :: [] ∧ decode 0x4000000A#32 = .fill 10#16) ∧
    (({ withIdentity .adp with inFlight := some 1#16 } : State).resetLine = false) ∧
    (Ready State.reset ∧ State.reset.cmd = []) :=
  ⟨⟨⟨rfl, rfl⟩, rfl, by decide⟩, rfl, ⟨rfl, rfl⟩, rfl⟩

/-- For the three frames. -/
theorem witness_Frames :
    (∃ t, exec (.fill 2#16) (withIdentity .gen) = .next t) ∧ (∃ t, exec (.keystream 2) (withIdentity .gen) = .next t) ∧
    (∃ t, exec .next (withIdentity .adp) = .next t) ∧ (withIdentity .adp).phase ≠ .gen ∧
    (∃ t, exec (.decrypt 1#16) (withAnswer 0x00000001#32 [9#8]) = .next t) ∧
    (∃ t, exec (.read 1#16) (withIdentity .gen) = .next t) ∧ (∃ t, exec (.read 1#16) (withIdentity .adp) = .next t) ∧
    (∃ t, exec (.init 0#9) (withIdentity .gen) = .next t) ∧ (∃ t, exec (.ainit 1#9) (withIdentity .gen) = .next t) :=
  ⟨exists_next (by decide +kernel), exists_next (by decide +kernel), exists_next (by decide +kernel), by decide,
    exists_next (by decide +kernel), exists_next (by decide +kernel), exists_next (by decide +kernel),
    exists_next (by decide +kernel), exists_next (by decide +kernel)⟩

end Sys2Proof.Tests
end

/-! PROOF. The family of 10_state.md: a step by its cases (R29, R78, R180, R190), swaps and permutations (R21, R22), the totality
of the schedule and of the PRGA on a written table (R90, R92), the cursor `i` (R23), and what a step does to a session (R28, R34). -/

namespace Sys2Proof.Machine

/-! ### The step by its cases (R29, R77, R78, R166, R180, R190) -/

theorem step_of_resetLine {s : State} (hl : s.resetLine = true) : step s = .next State.reset := by
  simp [step, hl]

theorem step_of_inFlight {s : State} {n : Count} (hl : s.resetLine = false) (hf : s.inFlight = some n) :
    step s = resumeRead n s := by
  simp [step, hl, hf]

theorem step_of_command {s : State} {w : Word} {rest : List Word} (hr : Ready s) (hc : s.cmd = w :: rest) :
    step s = exec (decode w) { s with cmd := rest } := by
  obtain ⟨hl, hf⟩ := hr
  simp [step, takeCommand, hl, hf, hc]

theorem step_of_noCommand {s : State} (hr : Ready s) (hc : s.cmd = []) : step s = .next s := by
  obtain ⟨hl, hf⟩ := hr
  simp [step, takeCommand, hl, hf, hc]

/-- Settles O44: the equations of `step` for a command word, for a `READ` in flight and for an empty `CMD`. -/
theorem stepRunsTheDecodedInstruction : Obligations.StepRunsTheDecodedInstruction := by
  refine ⟨?_, fun s n => step_of_inFlight, fun s => step_of_noCommand⟩
  rintro s w rest i hr hc rfl
  exact step_of_command hr hc

/-- No word decodes to a pseudo-operation (R75, R77). -/
theorem isPseudo_decode (w : Word) : (decode w).isPseudo = false := by
  unfold decode
  split_ifs <;> rfl

theorem decode_ne_keystream (w : Word) (n : Nat) : decode w ≠ .keystream n := by
  intro h
  simpa [h, Instr.isPseudo] using isPseudo_decode w

/-! ### What swaps keep (R9, R21, R22) -/

/-- A property of the memory that every swap of two entries keeps. The schedule and the PRGA write `S` by swaps only (R22). -/
def KeptBySwap (P : Memory → Prop) : Prop :=
  ∀ {m m' : Memory} {a b : Index}, swap m a b = some m' → P m → P m'

/-- A swap renames the addresses by a transposition. -/
theorem readS_of_swap_eq_readS_swap {m m' : Memory} {a b : Index} (h : swap m a b = some m') (c : Index) :
    readS m' c = readS m (Equiv.swap a b c) := by
  rw [readS_of_swap h, Equiv.swap_comm, Equiv.swap_apply_def, apply_ite (readS m), apply_ite (readS m)]

theorem keptBySwap_wf : KeptBySwap fun m => m.wf = true := fun hs hm => swap_wf hm hs

theorem keptBySwap_full : KeptBySwap Full := by
  intro m m' a b hs hm c
  simpa only [readS_of_swap_eq_readS_swap hs] using hm (Equiv.swap a b c)

theorem keptBySwap_isPermutation : KeptBySwap IsPermutation := by
  rintro m m' a b hs ⟨hfull, honce⟩
  refine ⟨keptBySwap_full hs hfull, fun v => ?_⟩
  obtain ⟨c, hc, huniq⟩ := honce v
  refine ⟨Equiv.swap a b c, ?_, fun d hd => ?_⟩
  · rw [readS_of_swap_eq_readS_swap hs, Equiv.swap_apply_self, hc]
  · rw [readS_of_swap_eq_readS_swap hs] at hd
    rw [← huniq _ hd, Equiv.swap_apply_self]

/-- A memory that lists nothing has no entries to swap. -/
theorem keptBySwap_empty : KeptBySwap (· = []) := by
  rintro m m' a b hs rfl
  obtain ⟨x, -, hx, -, -⟩ := swap_cases hs
  cases hx

theorem isPermutation_identityTable : IsPermutation identityTable :=
  ⟨fun a => ⟨a, readS_identityTable a⟩, fun v =>
    ⟨v, readS_identityTable v, fun b hb => Option.some.inj ((readS_identityTable b).symm.trans hb)⟩⟩

section
variable {P : Memory → Prop} (hP : KeptBySwap P)
include hP

theorem scheduleFrom_keeps {key : List Byte} {ps : List Nat} {m m' : Memory} {jt : Byte}
    (h : scheduleFrom key ps m jt = some m') (hm : P m) : P m' := by
  induction ps generalizing m jt with
  | nil =>
    cases h
    exact hm
  | cons p ps ih =>
    simp only [scheduleFrom] at h
    split at h
    · rename_i m₁ jt₁ hstep
      obtain ⟨-, -, -, -, -, hs⟩ := scheduleStep_cases hstep
      exact ih h (hP hs hm)
    · cases h

theorem constructed_keeps {key : List Byte} {g : Generator} (h : constructed key = some g) (hid : P identityTable) :
    P g.S := by
  obtain ⟨hsched, -, -⟩ := constructed_cases h
  exact scheduleFrom_keeps hP hsched hid

theorem prga_keeps {g g' : Generator} {z : Byte} (h : prga g = some (z, g')) (hg : P g.S) : P g'.S := by
  obtain ⟨-, -, -, -, -, -, hs, -⟩ := prga_cases h
  exact hP hs hg

theorem prgaRun_keeps {n : Nat} {g g' : Generator} {zs : List Byte} (h : prgaRun n g = some (zs, g')) (hg : P g.S) :
    P g'.S := by
  induction n generalizing g zs with
  | zero =>
    cases h
    exact hg
  | succ n ih =>
    simp only [prgaRun_succ, Option.bind_eq_some_iff, Option.map_eq_some_iff] at h
    obtain ⟨⟨z, g₁⟩, hz, ⟨zs', g₂⟩, hrun, heq⟩ := h
    cases heq
    exact ih hrun (prga_keeps hP hz hg)

end

/-! ### On a table with every entry written, the schedule and the PRGA succeed (R90, R92) -/

theorem swap_of_full {m : Memory} (hm : Full m) (a b : Index) : ∃ m', swap m a b = some m' := by
  obtain ⟨x, hx⟩ := hm a
  obtain ⟨y, hy⟩ := hm b
  exact ⟨_, swap_of_read hx hy⟩

theorem keyByte_of_ne_nil {key : List Byte} (hk : key ≠ []) (p : Nat) : ∃ k, keyByte key p = some k :=
  ⟨_, List.getElem?_eq_getElem (Nat.mod_lt p (List.length_pos_iff.mpr hk))⟩

theorem scheduleStep_of_full {key : List Byte} (hk : key ≠ []) {m : Memory} (hm : Full m) (p : Nat) (jt : Byte) :
    ∃ m' jt', scheduleStep key p m jt = some (m', jt') ∧ Full m' := by
  obtain ⟨x, hx⟩ := hm (BitVec.ofNat 8 p)
  obtain ⟨k, hkey⟩ := keyByte_of_ne_nil hk p
  obtain ⟨m', hs⟩ := swap_of_full hm (BitVec.ofNat 8 p) (add8 (add8 jt x) k)
  exact ⟨m', add8 (add8 jt x) k, by simp only [scheduleStep, hx, hkey, hs], keptBySwap_full hs hm⟩

theorem scheduleFrom_of_full {key : List Byte} (hk : key ≠ []) (ps : List Nat) {m : Memory} (hm : Full m) (jt : Byte) :
    ∃ m', scheduleFrom key ps m jt = some m' := by
  induction ps generalizing m jt with
  | nil => exact ⟨m, rfl⟩
  | cons p ps ih =>
    obtain ⟨m', jt', hstep, hm'⟩ := scheduleStep_of_full hk hm p jt
    simpa only [scheduleFrom, hstep] using ih hm' jt'

/-- A construction with a key that is not empty succeeds (R90). -/
theorem constructed_of_ne_nil {key : List Byte} (hk : key ≠ []) : ∃ g, constructed key = some g := by
  obtain ⟨m, hm⟩ := scheduleFrom_of_full hk (List.range Config.tableSize) isPermutation_identityTable.1 0#8
  exact ⟨{ S := m, i := 0#8, j := 0#8 }, by simp only [constructed, keySchedule, hm]⟩

theorem prga_of_full {g : Generator} (hg : Full g.S) : ∃ z g', prga g = some (z, g') := by
  obtain ⟨x, hx⟩ := hg (add8 g.i 1#8)
  obtain ⟨m, hs⟩ := swap_of_full hg (add8 g.i 1#8) (add8 g.j x)
  have hm : Full m := keptBySwap_full hs hg
  obtain ⟨y, hy⟩ := hm (add8 g.i 1#8)
  obtain ⟨y', hy'⟩ := hm (add8 g.j x)
  obtain ⟨z, hz⟩ := hm (add8 y y')
  exact ⟨z, { S := m, i := add8 g.i 1#8, j := add8 g.j x }, by simp only [prga, hx, hs, hy, hy', hz]⟩

theorem prgaRun_of_full (n : Nat) {g : Generator} (hg : Full g.S) : ∃ zs g', prgaRun n g = some (zs, g') := by
  induction n generalizing g with
  | zero => exact ⟨[], g, rfl⟩
  | succ n ih =>
    obtain ⟨z, g₁, hz⟩ := prga_of_full hg
    obtain ⟨zs, g₂, hrun⟩ := ih (prga_keeps keptBySwap_full hz hg)
    exact ⟨z :: zs, g₂, by simp [prgaRun_succ, hz, hrun]⟩

/-- Every PRGA step adds one to the cursor `i` (R92). -/
theorem prgaRun_i {n : Nat} {g g' : Generator} {zs : List Byte} (h : prgaRun n g = some (zs, g')) :
    g'.i.toNat = (g.i.toNat + n) % 256 := by
  induction n generalizing g zs with
  | zero =>
    cases h
    exact (Nat.mod_eq_of_lt g'.i.isLt).symm
  | succ n ih =>
    simp only [prgaRun_succ, Option.bind_eq_some_iff, Option.map_eq_some_iff] at h
    obtain ⟨⟨z, g₁⟩, hz, ⟨zs', g₂⟩, hrun, heq⟩ := h
    cases heq
    obtain ⟨-, -, -, -, hi, -⟩ := prga_cases hz
    rw [ih hrun, hi, BitVec.toNat_add, BitVec.toNat_ofNat]
    omega

/-- Settles O19: the construction and the steps succeed on a full table, and each step adds one to `i`, which starts at 0. -/
theorem cursorICountsTheBytes : Obligations.CursorICountsTheBytes := by
  intro key m hk
  obtain ⟨g, hg⟩ := constructed_of_ne_nil hk
  have hfull : Full g.S := constructed_keeps keptBySwap_full hg isPermutation_identityTable.1
  obtain ⟨zs, g', hrun⟩ := prgaRun_of_full m hfull
  refine ⟨g, zs, g', hg, hrun, prgaRun_length hrun, ?_⟩
  obtain ⟨-, hi, -⟩ := constructed_cases hg
  simpa [hi] using prgaRun_i hrun

/-! ### What a step does to a session: reset, a construction, or some PRGA steps (R28, R131) -/

/-- From `s` to `t` the session goes on: same phase, the generator after some number of PRGA steps (none for an error, a wait or
an idle core), and no `READ` newly in flight but in phase ADP. -/
structure SessionGoesOn (s t : State) : Prop where
  phase : t.phase = s.phase
  run : ∃ n zs, prgaRun n s.gen = some (zs, t.gen)
  inFlight : t.inFlight ≠ none → s.inFlight ≠ none ∨ s.phase = .adp

theorem sessionGoesOn_of_gen_eq {s t : State} (hp : t.phase = s.phase) (hg : t.gen = s.gen)
    (hf : t.inFlight ≠ none → s.inFlight ≠ none ∨ s.phase = .adp) : SessionGoesOn s t :=
  ⟨hp, ⟨0, [], by rw [hg, prgaRun_zero]⟩, hf⟩

/-- XOR in place runs one PRGA step for each byte of data (R111). -/
theorem prgaRun_of_xorRun {ds out : List Byte} {g g' : Generator} (h : xorRun ds g = some (out, g')) :
    ∃ zs, prgaRun ds.length g = some (zs, g') := by
  rw [xorRun_eq, Option.map_eq_some_iff] at h
  obtain ⟨⟨zs, g₁⟩, hrun, heq⟩ := h
  cases heq
  exact ⟨zs, hrun⟩

/-- A `READ` in flight, waiting, failed or complete, goes on with the session (R111, R113, R190). -/
theorem takeAnswer_sessionGoesOn {n : Count} {s t : State} (hf : s.inFlight = some n) (h : takeAnswer n s = .next t) :
    SessionGoesOn s t := by
  have hflight : s.inFlight ≠ none := by simp [hf]
  rcases takeAnswer_cases h with ⟨-, rfl⟩ | ⟨r, rest, -, -, rfl⟩ | ⟨r, rest, out, g, -, -, -, -, hx, rfl⟩
  · exact sessionGoesOn_of_gen_eq rfl rfl fun _ => .inl hflight
  · exact sessionGoesOn_of_gen_eq rfl rfl fun _ => .inl hflight
  · obtain ⟨zs, hrun⟩ := prgaRun_of_xorRun hx
    exact ⟨rfl, ⟨_, zs, hrun⟩, fun _ => .inl hflight⟩

/-- An instruction other than `KEYSTREAM` goes on with the session, or is a construction that starts a new one (R28). -/
theorem Effect.session_cases {i : Instr} {s t : State} (h : Effect i s t) :
    SessionGoesOn s t ∨
    ∃ p l g, ((i = .init l ∧ p = .gen) ∨ (i = .ainit l ∧ p = .adp)) ∧ constructed (s.key.take l.toNat) = some g ∧
      t = { s with phase := p, gen := g, key := s.key.drop l.toNat, rsp := s.rsp ++ [0x00000000#32] } := by
  cases h with
  | error r _ ht => subst ht; exact .inl (sessionGoesOn_of_gen_eq rfl rfl .inl)
  | wait w l _ _ _ ht => subst ht; exact .inl (sessionGoesOn_of_gen_eq rfl rfl .inl)
  | construction p l g hi _ _ _ hg ht => exact .inr ⟨p, l, g, hi, hg, ht⟩
  | production n zs g _ _ hg ht => subst ht; exact .inl ⟨rfl, ⟨_, zs, hg⟩, .inl⟩
  | readWaits n _ hp _ ht => subst ht; exact .inl (sessionGoesOn_of_gen_eq rfl rfl fun _ => .inr hp)
  | readError n r rest _ hp _ _ ht => subst ht; exact .inl (sessionGoesOn_of_gen_eq rfl rfl fun _ => .inr hp)
  | readData n r rest out g _ hp _ _ _ _ hx ht =>
    obtain ⟨zs, hrun⟩ := prgaRun_of_xorRun hx
    subst ht
    exact .inl ⟨rfl, ⟨_, zs, hrun⟩, fun _ => .inr hp⟩

/-- A step is the reset event, goes on with the session, or is a construction taken from `CMD` (R28, R180). -/
theorem step_session_cases {s t : State} (h : step s = .next t) :
    (s.resetLine = true ∧ t = State.reset) ∨ SessionGoesOn s t ∨
    (s.resetLine = false ∧ s.inFlight = none ∧ ∃ w rest p l g, s.cmd = w :: rest ∧
      ((decode w = .init l ∧ p = .gen) ∨ (decode w = .ainit l ∧ p = .adp)) ∧
      constructed (s.key.take l.toNat) = some g ∧
      t = { s with cmd := rest, phase := p, gen := g, key := s.key.drop l.toNat, rsp := s.rsp ++ [0x00000000#32] }) := by
  rcases step_cases h with ⟨hl, ht⟩ | ⟨-, n, hf, hread⟩ | ⟨hl, hf, w, rest, hc, hexec⟩ | ⟨-, -, -, ht⟩
  · cases ht
    exact .inl ⟨hl, rfl⟩
  · exact .inr (.inl (takeAnswer_sessionGoesOn hf hread))
  · rcases (exec_effect (decode_ne_keystream w) hexec).session_cases with hgo | ⟨p, l, g, hi, hg, ht⟩
    · exact .inr (.inl ⟨hgo.phase, hgo.run, hgo.inFlight⟩)
    · exact .inr (.inr ⟨hl, hf, w, rest, p, l, g, hc, hi, hg, ht⟩)
  · cases ht
    exact .inr (.inl (sessionGoesOn_of_gen_eq rfl rfl .inl))

/-! ### The invariant and the phase (R21, R28, R34, R131, R154) -/

theorem inv_reset : Inv State.reset :=
  ⟨reset_memory_wf, fun _ => rfl, fun hp => absurd reset_phase hp, fun hf => absurd reset_inFlight hf⟩

/-- The PRGA only swaps, so it keeps each part of the invariant about `S`; an empty `S` it cannot run on at all. -/
theorem SessionGoesOn.keeps_inv {s t : State} (h : SessionGoesOn s t) (hs : Inv s) : Inv t := by
  obtain ⟨hwf, hempty, hperm, hflight⟩ := hs
  obtain ⟨n, zs, hrun⟩ := h.run
  rw [Inv, h.phase]
  refine ⟨prgaRun_keeps keptBySwap_wf hrun hwf, fun hp => prgaRun_keeps keptBySwap_empty hrun (hempty hp),
    fun hp => prgaRun_keeps keptBySwap_isPermutation hrun (hperm hp), fun hf => ?_⟩
  exact (h.inFlight hf).elim hflight id

/-- A construction leaves a permutation in canonical form: the schedule swaps entries of the identity table. -/
theorem inv_of_constructed {key : List Byte} {t : State} (hg : constructed key = some t.gen) (hp : t.phase ≠ .unkeyed)
    (hf : t.inFlight = none) : Inv t :=
  ⟨constructed_keeps keptBySwap_wf hg identityTable_wf, fun hp' => absurd hp' hp,
    fun _ => constructed_keeps keptBySwap_isPermutation hg isPermutation_identityTable, fun hf' => absurd hf hf'⟩

/-- Settles O39: reset has the invariant, a construction establishes it, and going on with a session keeps it. -/
theorem everyStepKeepsTheInvariant : Obligations.EveryStepKeepsTheInvariant := by
  intro s t hs h
  rcases step_session_cases h with ⟨-, rfl⟩ | hgo | ⟨-, hf, w, rest, p, l, g, -, hi, hg, rfl⟩
  · exact inv_reset
  · exact hgo.keeps_inv hs
  · refine inv_of_constructed hg ?_ hf
    rcases hi with ⟨-, rfl⟩ | ⟨-, rfl⟩ <;> exact Phase.noConfusion

/-- Settles O41: a session that goes on keeps its phase, which leaves the reset event and the constructions. -/
theorem phaseWrittenOnlyByResetAndConstructions : Obligations.PhaseWrittenOnlyByResetAndConstructions := by
  intro s t h hne
  rcases step_session_cases h with ⟨hl, rfl⟩ | hgo | ⟨hl, -, w, rest, p, l, g, hc, hi, -, rfl⟩
  · exact .inl ⟨hl, rfl⟩
  · exact absurd hgo.phase hne
  · exact .inr ⟨hl, rfl, w, rest, l, hc, hi⟩

/-! ### While unkeyed, `S`, `i` and `j` are not observed (R34) -/

theorem construct_of_tooLong (p : Phase) (w : Word) {l : KeyLen} (s : State) (hl : 256 < l.toNat) :
    construct p w l s = raise .illegal s := if_pos hl

theorem construct_of_emptyKey (p : Phase) (w : Word) {l : KeyLen} (s : State) (hl : l.toNat = 0) :
    construct p w l s = raise .invalidKey s := by
  simp [construct, hl, Config.keyMax]

theorem construct_of_missingBeats (p : Phase) (w : Word) {l : KeyLen} {s : State} (hl : l.toNat ≤ 256)
    (hk : s.key.length < l.toNat) : construct p w l s = .next (notIssued w s) := by
  have hmax : ¬ Config.keyMax < l.toNat := Nat.not_lt.mpr hl
  have hpos : l.toNat ≠ 0 := by omega
  have htake : takeKey l.toNat s = none := if_neg (by omega)
  simp only [construct, hmax, hpos, htake, if_false]

theorem construct_of_constructed (p : Phase) (w : Word) {l : KeyLen} {s : State} {g : Generator} (h1 : 1 ≤ l.toNat)
    (h2 : l.toNat ≤ 256) (hk : l.toNat ≤ s.key.length) (hg : constructed (s.key.take l.toNat) = some g) :
    construct p w l s =
      .next { s with phase := p, gen := g, key := s.key.drop l.toNat, rsp := s.rsp ++ [0x00000000#32] } := by
  have hmax : ¬ Config.keyMax < l.toNat := Nat.not_lt.mpr h2
  have hpos : l.toNat ≠ 0 := by omega
  have htake : takeKey l.toNat s = some (s.key.take l.toNat, { s with key := s.key.drop l.toNat }) := if_pos hk
  simp only [construct, hmax, hpos, htake, hg, if_false]
  rfl

/-- The operation `f` completes from `s` and does not observe the generator: with `g` in its place it does the same, and it either
writes the generator anew or leaves it, with the core still unkeyed. -/
def GeneratorUnobserved (f : State → Host.Outcome State Fault Refusal) (s : State) (g : Generator) : Prop :=
  ∃ t, f s = .next t ∧
    (f { s with gen := g } = .next t ∨
      (t.phase = .unkeyed ∧ t.gen = s.gen ∧ f { s with gen := g } = .next { t with gen := g }))

section
variable {s : State} (hu : s.phase = .unkeyed) (g : Generator)
include hu

theorem raise_generatorUnobserved (e : ErrorKind) : GeneratorUnobserved (raise e) s g :=
  ⟨_, rfl, .inr ⟨hu, rfl, rfl⟩⟩

theorem construct_generatorUnobserved (p : Phase) (w : Word) (l : KeyLen) :
    GeneratorUnobserved (construct p w l) s g := by
  rcases Nat.lt_or_ge 256 l.toNat with hlong | h256
  · simpa only [GeneratorUnobserved, construct_of_tooLong _ _ _ hlong] using raise_generatorUnobserved hu g .illegal
  rcases Nat.eq_zero_or_pos l.toNat with hzero | hpos
  · simpa only [GeneratorUnobserved, construct_of_emptyKey _ _ _ hzero] using raise_generatorUnobserved hu g .invalidKey
  rcases Nat.lt_or_ge s.key.length l.toNat with hmissing | hkey
  · exact ⟨_, construct_of_missingBeats p w h256 hmissing,
      .inr ⟨hu, rfl, construct_of_missingBeats (s := { s with gen := g }) p w h256 hmissing⟩⟩
  · have hne : s.key.take l.toNat ≠ [] := by
      rw [← List.length_pos_iff, List.length_take]
      omega
    obtain ⟨g', hg'⟩ := constructed_of_ne_nil hne
    exact ⟨_, construct_of_constructed p w hpos h256 hkey hg',
      .inl (construct_of_constructed (s := { s with gen := g }) p w hpos h256 hkey hg')⟩

/-- An operation of the raw generator is refused while unkeyed (R154). -/
theorem produce_generatorUnobserved (n : Count) : GeneratorUnobserved (fun s => inGen s (produce n s)) s g := by
  simpa [GeneratorUnobserved, inGen, hu] using raise_generatorUnobserved hu g .notReady

/-- A `READ` is refused while unkeyed, and the source is not asked (R154). -/
theorem readSource_generatorUnobserved (n : Count) : GeneratorUnobserved (readSource n) s g := by
  simpa [GeneratorUnobserved, readSource, hu] using raise_generatorUnobserved hu g .notReady

theorem exec_generatorUnobserved {i : Instr} (hi : i.isPseudo = false) : GeneratorUnobserved (exec i) s g := by
  cases i with
  | init l => exact construct_generatorUnobserved hu g _ _ l
  | ainit l => exact construct_generatorUnobserved hu g _ _ l
  | next => exact produce_generatorUnobserved hu g 1#16
  | fill n => exact produce_generatorUnobserved hu g n
  | read n => exact readSource_generatorUnobserved hu g n
  | encrypt n => cases hi
  | decrypt n => cases hi
  | keystream n => cases hi
  | reservedOp0 _ => exact raise_generatorUnobserved hu g .illegal
  | reservedOp6_7 _ _ => exact raise_generatorUnobserved hu g .illegal
  | reservedOp8_F _ _ => exact raise_generatorUnobserved hu g .illegal
  | reservedRsv _ _ _ => exact raise_generatorUnobserved hu g .illegal
  | reservedKeylenInit _ => exact raise_generatorUnobserved hu g .illegal
  | reservedKeylenAinit _ => exact raise_generatorUnobserved hu g .illegal
  | reservedNextarg _ => exact raise_generatorUnobserved hu g .illegal

end

/-- Settles O14: the reset event and the idle step do not read the generator, and no instruction observes it while unkeyed. -/
theorem unkeyedContentsCannotBeObserved : Obligations.UnkeyedContentsCannotBeObserved := by
  intro s g hu hf
  show GeneratorUnobserved step s g
  cases hl : s.resetLine with
  | true => exact ⟨_, step_of_resetLine hl, .inl (step_of_resetLine (s := { s with gen := g }) hl)⟩
  | false =>
    have hr : Ready s := ⟨hl, hf⟩
    have hr' : Ready { s with gen := g } := ⟨hl, hf⟩
    cases hc : s.cmd with
    | nil => exact ⟨s, step_of_noCommand hr hc, .inr ⟨hu, rfl, step_of_noCommand hr' hc⟩⟩
    | cons w rest =>
      rw [GeneratorUnobserved, step_of_command hr hc, step_of_command hr' hc]
      exact exec_generatorUnobserved (s := { s with cmd := rest }) hu g (isPseudo_decode w)

end Sys2Proof.Machine

/-! PROOF. The family of 30_encoding.md: the decoder and the encoder are inverse (R61 to R65, R71, R73, R77), the expansion of the
pseudo-operations (R75), the reserved words (R71, R155), and what a command takes from `KEY` and puts on `RSP`, `DOUT` and `SCMD`
(R66, R67, R69, R70, R78). -/

namespace Sys2Proof.Machine

/-! ### Decoding the words of an instruction (R61 to R65, R71, R75) -/

@[simp] theorem decode_initWord {l : KeyLen} (hl : l.toNat ≤ 256) : decode (initWord l) = .init l := by
  simp [decode, initWord, hl]

@[simp] theorem decode_ainitWord {l : KeyLen} (hl : l.toNat ≤ 256) : decode (ainitWord l) = .ainit l := by
  simp [decode, ainitWord, hl]

@[simp] theorem decode_fillWord (n : Count) : decode (fillWord n) = .fill n := by
  simp [decode, fillWord]

@[simp] theorem decode_readWord (n : Count) : decode (readWord n) = .read n := by
  simp [decode, readWord]

/-- With `RSV` zero, every `OP` from 8 on is the row RESERVED.OP8_F (R71). -/
theorem decode_packWord_of_eight_le {op : BitVec 4} (hop : 8 ≤ op.toNat) (arg : BitVec 16) :
    decode (packWord op 0#12 arg) = .reservedOp8_F op arg := by
  have hne : ∀ k : BitVec 4, k.toNat < 8 → op ≠ k := by rintro k hk rfl; omega
  simp [decode, hne]

/-- Settles O1: each row's words carry the row's `OP`, `RSV` and `ARG`, and those lead `decode` to the row. -/
theorem decodeOfEncodeIsExpansion : Obligations.DecodeOfEncodeIsExpansion := by
  intro i hwf
  cases i with
  | init l => simp [encode, expand, decode_initWord (of_decide_eq_true hwf)]
  | ainit l => simp [encode, expand, decode_ainitWord (of_decide_eq_true hwf)]
  | next => simp [encode, expand, decode]
  | fill n => simp [encode, expand]
  | read n => simp [encode, expand]
  | encrypt n => simp [encode, expand]
  | decrypt n => simp [encode, expand]
  | keystream n => simp [encode, expand]
  | reservedOp0 arg => simp [encode, expand, decode]
  | reservedOp6_7 op arg => rcases of_decide_eq_true hwf with rfl | rfl <;> simp [encode, expand, decode]
  | reservedOp8_F op arg => simp [encode, expand, decode_packWord_of_eight_le (of_decide_eq_true hwf)]
  | reservedRsv op rsv arg => simp [encode, expand, decode, of_decide_eq_true hwf]
  | reservedKeylenInit arg => simp [encode, expand, decode, Nat.not_le.mpr (of_decide_eq_true hwf)]
  | reservedKeylenAinit arg => simp [encode, expand, decode, Nat.not_le.mpr (of_decide_eq_true hwf)]
  | reservedNextarg arg => simp [encode, expand, decode, of_decide_eq_true hwf]

/-! ### Encoding what a word decodes to (R71, R73, R77) -/

/-- A word with `RSV` zero and this `OP` is the word of its `OP` and its `ARG`. -/
theorem packWord_argField {w : Word} {op : BitVec 4} (hrsv : rsvField w = 0#12) (hop : opField w = op) :
    packWord op 0#12 (argField w) = w := by
  rw [← hrsv, ← hop, packWord_fields]

theorem encode_decode (w : Word) : encode (decode w) = [w] := by
  unfold decode
  split_ifs with hrsv h0 h1 harg h2 harg h3 harg h4 h5 h67
  case pos => simp [encode]
  all_goals rw [ne_eq, not_not] at hrsv
  · simp [encode, packWord_argField hrsv h0]
  · simp [encode, initWord, argOfKeyLen_keyLenOfArg harg, packWord_argField hrsv h1]
  · simp [encode, packWord_argField hrsv h1]
  · simp [encode, ainitWord, argOfKeyLen_keyLenOfArg harg, packWord_argField hrsv h2]
  · simp [encode, packWord_argField hrsv h2]
  · rw [encode, ← harg, packWord_argField hrsv h3]
  · simp [encode, packWord_argField hrsv h3]
  · simp [encode, fillWord, packWord_argField hrsv h4]
  · simp [encode, readWord, packWord_argField hrsv h5]
  · simp [encode, packWord_argField hrsv rfl]
  · simp [encode, packWord_argField hrsv rfl]

/-- The `OP`s that no row before RESERVED.OP8_F names are 8 to F (R71). -/
theorem eight_le_of_op_ne {op : BitVec 4} (h0 : op ≠ 0x0#4) (h1 : op ≠ 0x1#4) (h2 : op ≠ 0x2#4) (h3 : op ≠ 0x3#4)
    (h4 : op ≠ 0x4#4) (h5 : op ≠ 0x5#4) (h67 : ¬(op = 0x6#4 ∨ op = 0x7#4)) : 8 ≤ op.toNat := by
  bv_omega

theorem wellFormed_decode (w : Word) : (decode w).wellFormed = true := by
  unfold decode
  split_ifs with hrsv h0 h1 harg h2 harg h3 harg h4 h5 h67
  · exact decide_eq_true hrsv
  · rfl
  · exact decide_eq_true (by simpa [keyLenOfArg] using (Nat.mod_le _ _).trans harg)
  · exact decide_eq_true (Nat.lt_of_not_le harg)
  · exact decide_eq_true (by simpa [keyLenOfArg] using (Nat.mod_le _ _).trans harg)
  · exact decide_eq_true (Nat.lt_of_not_le harg)
  · rfl
  · exact decide_eq_true harg
  · rfl
  · rfl
  · exact decide_eq_true h67
  · exact decide_eq_true (eight_le_of_op_ne h0 h1 h2 h3 h4 h5 h67)

/-- Settles O2: `encode` puts the fields back that `decode` has read. -/
theorem encodeOfDecodeIsTheWord : Obligations.EncodeOfDecodeIsTheWord :=
  fun w => ⟨encode_decode w, wellFormed_decode w, isPseudo_decode w⟩

/-! ### Decoding by the fields as numbers (R77) -/

theorem expand_of_isPseudo_eq_false {i : Instr} (hp : i.isPseudo = false) : expand i = [i] := by
  revert hp
  cases i <;> simp [expand, Instr.isPseudo]

/-- A word decodes to a well-formed operation exactly when it is that operation's one word. -/
theorem decode_eq_iff {i : Instr} (hwf : i.wellFormed = true) (hp : i.isPseudo = false) (w : Word) :
    decode w = i ↔ encode i = [w] := by
  constructor
  · rintro rfl
    exact encode_decode w
  · intro he
    simpa [he, expand_of_isPseudo_eq_false hp] using decodeOfEncodeIsExpansion i hwf

theorem opField_eq_iff {w : Word} {op : BitVec 4} : opField w = op ↔ opNumber w = op.toNat := by
  rw [← BitVec.toNat_inj, opField_toNat, opNumber]

theorem rsvField_eq_iff {w : Word} {rsv : BitVec 12} : rsvField w = rsv ↔ rsvNumber w = rsv.toNat := by
  rw [← BitVec.toNat_inj, rsvField_toNat, rsvNumber]

theorem argField_eq_iff {w : Word} {arg : BitVec 16} : argField w = arg ↔ argNumber w = arg.toNat := by
  rw [← BitVec.toNat_inj, argField_toNat, argNumber]

theorem argField_eq_ofNat (w : Word) : argField w = BitVec.ofNat 16 (argNumber w) := by
  simp [argField_eq_iff, argNumber]

theorem keyLenOfArg_argField (w : Word) : keyLenOfArg (argField w) = BitVec.ofNat 9 (argNumber w) := by
  apply BitVec.eq_of_toNat_eq
  simp [keyLenOfArg, argField_toNat, argNumber]

/-- The reserved words by their bits are the words that `decode` gives to a reserved row (R71). -/
theorem isReserved_decode (w : Word) : (decode w).isReserved = isReservedWord w := by
  have hop : opNumber w < 16 := by have := w.isLt; unfold opNumber; omega
  have harg : argNumber w < 65536 := Nat.mod_lt _ (by decide)
  have hfield : (argField w).toNat = argNumber w := argField_toNat w
  unfold decode
  simp only [opField_eq_iff, rsvField_eq_iff, argField_eq_iff, hfield, ne_eq, BitVec.toNat_ofNat, Config.keyMax]
  split_ifs <;> simp [isReservedWord, Instr.isReserved] <;> omega

section
variable {w : Word} (hrsv : rsvNumber w = 0)
include hrsv

theorem decode_of_opNumber_one (hop : opNumber w = 1) (harg : argNumber w ≤ 256) :
    decode w = .init (BitVec.ofNat 9 (argNumber w)) := by
  have hfield : (argField w).toNat = argNumber w := argField_toNat w
  simp [decode, opField_eq_iff, rsvField_eq_iff, hrsv, hop, hfield, harg, keyLenOfArg_argField]

theorem decode_of_opNumber_two (hop : opNumber w = 2) (harg : argNumber w ≤ 256) :
    decode w = .ainit (BitVec.ofNat 9 (argNumber w)) := by
  have hfield : (argField w).toNat = argNumber w := argField_toNat w
  simp [decode, opField_eq_iff, rsvField_eq_iff, hrsv, hop, hfield, harg, keyLenOfArg_argField]

theorem decode_of_opNumber_three (hop : opNumber w = 3) (harg : argNumber w = 0) : decode w = .next := by
  simp [decode, opField_eq_iff, rsvField_eq_iff, argField_eq_iff, hrsv, hop, harg]

theorem decode_of_opNumber_four (hop : opNumber w = 4) : decode w = .fill (BitVec.ofNat 16 (argNumber w)) := by
  simp [decode, opField_eq_iff, rsvField_eq_iff, hrsv, hop, argField_eq_ofNat]

theorem decode_of_opNumber_five (hop : opNumber w = 5) : decode w = .read (BitVec.ofNat 16 (argNumber w)) := by
  simp [decode, opField_eq_iff, rsvField_eq_iff, hrsv, hop, argField_eq_ofNat]

end

theorem isReserved_decode_of_rsvNumber_ne {w : Word} (hrsv : rsvNumber w ≠ 0) : (decode w).isReserved = true := by
  simp [isReserved_decode, isReservedWord, hrsv]

/-- Every word that is none of the five operations' is reserved (R77). -/
theorem isReserved_decode_of_no_row {w : Word} (h1 : ¬(opNumber w = 1 ∧ argNumber w ≤ 256))
    (h2 : ¬(opNumber w = 2 ∧ argNumber w ≤ 256)) (h3 : ¬(opNumber w = 3 ∧ argNumber w = 0)) (h4 : opNumber w ≠ 4)
    (h5 : opNumber w ≠ 5) : (decode w).isReserved = true := by
  rw [isReserved_decode, isReservedWord, decide_eq_true_eq]
  omega

theorem decode_injective {w w' : Word} (h : decode w = decode w') : w = w' := by
  simpa [encode_decode] using congrArg encode h

/-- Every well-formed operation that is no pseudo-operation has one word (R61, R77). -/
theorem exists_encode_eq_singleton {i : Instr} (hp : i.isPseudo = false) : ∃ w, encode i = [w] := by
  cases i with
  | keystream n => cases hp
  | _ => exact ⟨_, rfl⟩

/-- Settles O3: the rows by their numbers; `encode` undoes `decode`, so no two words decode alike; and the word of an operation is
the word of its encoding. -/
theorem decodeFollowsTheFields : Obligations.DecodeFollowsTheFields := by
  refine ⟨fun w => ⟨isReserved_decode_of_rsvNumber_ne, decode_of_opNumber_one, decode_of_opNumber_two,
    decode_of_opNumber_three, decode_of_opNumber_four, decode_of_opNumber_five, isReserved_decode_of_no_row⟩,
    fun w w' => decode_injective, fun i hwf hp _ => ?_⟩
  obtain ⟨w, hw⟩ := exists_encode_eq_singleton hp
  have hdecode : decode w = i := (decode_eq_iff hwf hp w).mpr hw
  exact ⟨w, hdecode, fun w' hw' => decode_injective (hw'.trans hdecode.symm)⟩

/-- Settles O4, by decoding each word. -/
theorem sampleWordsDecode : Obligations.SampleWordsDecode := by
  unfold Obligations.SampleWordsDecode
  decide

/-! ### Reserved words (R71, R155) -/

theorem exec_of_isReserved {i : Instr} (hi : i.isReserved = true) (s : State) : exec i s = raise .illegal s := by
  cases i with
  | reservedOp0 _ | reservedOp6_7 _ _ | reservedOp8_F _ _ | reservedRsv _ _ _ => rfl
  | reservedKeylenInit _ | reservedKeylenAinit _ | reservedNextarg _ => rfl
  | _ => cases hi

theorem step_of_reservedWord {s : State} {w : Word} {rest : List Word} (hr : Ready s) (hc : s.cmd = w :: rest)
    (hw : isReservedWord w = true) : step s = .next { s with cmd := rest, rsp := s.rsp ++ [0x40000000#32] } := by
  rw [← isReserved_decode] at hw
  rw [step_of_command hr hc, exec_of_isReserved hw, raise_eq, errorWord_illegal, respond]

/-- Settles O5: a word that R71 lists decodes to a reserved row, and each of these only raises `ILLEGAL`. -/
theorem reservedWordsAnswerIllegal : Obligations.ReservedWordsAnswerIllegal :=
  ⟨fun _ _ _ => step_of_reservedWord, by decide, by decide⟩

/-! ### Constructions taken from `CMD` (R66, R78, R188) -/

/-- A construction at the head of `CMD` runs `construct` with its own word, so a wait puts that word back. -/
theorem step_of_construction {s : State} {w : Word} {rest : List Word} {l : KeyLen} (hr : Ready s)
    (hc : s.cmd = w :: rest) (hd : decode w = .init l ∨ decode w = .ainit l) :
    l.toNat ≤ 256 ∧ ∃ p, step s = construct p w l { s with cmd := rest } := by
  have hwf := wellFormed_decode w
  have hw := encode_decode w
  rw [step_of_command hr hc]
  rcases hd with hd | hd
  · rw [hd] at hwf hw ⊢
    cases hw
    exact ⟨of_decide_eq_true hwf, .gen, rfl⟩
  · rw [hd] at hwf hw ⊢
    cases hw
    exact ⟨of_decide_eq_true hwf, .adp, rfl⟩

/-- With key beats missing the step leaves the state as it is (assumption log 7). -/
theorem step_of_missingBeats {s : State} {w : Word} {rest : List Word} {l : KeyLen} (hr : Ready s)
    (hc : s.cmd = w :: rest) (hd : decode w = .init l ∨ decode w = .ainit l) (hk : s.key.length < l.toNat) :
    step s = .next s := by
  obtain ⟨hl, p, hstep⟩ := step_of_construction hr hc hd
  rw [hstep, construct_of_missingBeats (s := { s with cmd := rest }) p w hl hk, notIssued, ← hc]

theorem step_takes_key {s : State} {w : Word} {rest : List Word} {l : KeyLen} (hr : Ready s)
    (hc : s.cmd = w :: rest) (hd : decode w = .init l ∨ decode w = .ainit l) (hpos : 1 ≤ l.toNat)
    (hk : l.toNat ≤ s.key.length) : ∃ t, step s = .next t ∧ t.key = s.key.drop l.toNat := by
  obtain ⟨hl, p, hstep⟩ := step_of_construction hr hc hd
  have hne : s.key.take l.toNat ≠ [] := by
    rw [← List.length_pos_iff, List.length_take]
    omega
  obtain ⟨g, hg⟩ := constructed_of_ne_nil hne
  exact ⟨_, hstep.trans (construct_of_constructed (s := { s with cmd := rest }) p w hpos hl hk hg), rfl⟩

/-- Settles O11: `construct` by the number of beats, and the step of a reserved word. -/
theorem keyBeatsMatchTheLength : Obligations.KeyBeatsMatchTheLength := by
  intro s w rest hr hc
  refine ⟨fun l hd => ⟨step_of_missingBeats hr hc hd, step_takes_key hr hc hd, fun hzero => ?_⟩,
    fun hw => ⟨_, step_of_reservedWord hr hc hw, rfl⟩⟩
  obtain ⟨-, p, hstep⟩ := step_of_construction hr hc hd
  exact ⟨_, hstep.trans (construct_of_emptyKey p w _ hzero), rfl⟩

/-! ### What a step sends and takes (R66, R67, R69, R70, R78) -/

/-- The `READ` in flight goes on, the command taken has its effect, or the core is idle. -/
theorem step_effect_cases {s t : State} (hl : s.resetLine = false) (h : step s = .next t) :
    (∃ n, s.inFlight = some n ∧ takeAnswer n s = .next t) ∨
    (s.inFlight = none ∧ ∃ w rest, s.cmd = w :: rest ∧ Effect (decode w) { s with cmd := rest } t) ∨ t = s := by
  rcases step_cases h with ⟨hreset, -⟩ | ⟨-, n, hf, hread⟩ | ⟨-, hf, w, rest, hc, hexec⟩ | ⟨-, -, -, ht⟩
  · simp [hl] at hreset
  · exact .inl ⟨n, hf, hread⟩
  · exact .inr (.inl ⟨hf, w, rest, hc, exec_effect (decode_ne_keystream w) hexec⟩)
  · cases ht
    exact .inr (.inr rfl)

/-- Of the spellings of `READ n` only `READ n` is what a word decodes to (R75). -/
theorem decode_eq_read {w : Word} {n : Count}
    (h : decode w = .read n ∨ decode w = .encrypt n ∨ decode w = .decrypt n) : decode w = .read n := by
  have hp := isPseudo_decode w
  rcases h with h | h | h
  · exact h
  · rw [h] at hp; cases hp
  · rw [h] at hp; cases hp

/-- A `READ` in flight whose answer is incomplete stays so; else it ends with one response word (R67, R190). -/
theorem takeAnswer_response_cases {s t : State} {n : Count} (hf : s.inFlight = some n) (h : takeAnswer n s = .next t) :
    (t = s ∧ AnswerIncomplete n s) ∨ (t.cmd = s.cmd ∧ t.inFlight = none ∧ ∃ r, t.rsp = s.rsp ++ [r]) := by
  rcases takeAnswer_cases h with ⟨ha, rfl⟩ | ⟨r, rest, -, -, rfl⟩ | ⟨r, rest, out, g, -, -, -, -, -, rfl⟩
  · exact .inl ⟨by rw [← hf], ha⟩
  · exact .inr ⟨rfl, rfl, r, rfl⟩
  · exact .inr ⟨rfl, rfl, r, rfl⟩

/-- A command word taken from `CMD` goes back for want of key beats, is answered with one word, or puts a `READ` in flight. -/
theorem Effect.response_cases {s t : State} {w : Word} {rest : List Word} (hf : s.inFlight = none)
    (hc : s.cmd = w :: rest) (h : Effect (decode w) { s with cmd := rest } t) :
    (t = s ∧ ∃ l : KeyLen, (decode w = .init l ∨ decode w = .ainit l) ∧ s.key.length < l.toNat) ∨
    (t.cmd = rest ∧ t.inFlight = none ∧ ∃ r, t.rsp = s.rsp ++ [r]) ∨
    (t.cmd = rest ∧ t.rsp = s.rsp ∧ s.phase = .adp ∧
      ∃ n, decode w = .read n ∧ t.inFlight = some n ∧ AnswerIncomplete n s) := by
  cases h with
  | error r _ ht => subst ht; exact .inr (.inl ⟨rfl, hf, r, rfl⟩)
  | wait w' l hi hw hk ht =>
    rw [encode_decode] at hw
    cases hw
    exact .inl ⟨by rw [ht, ← hc], l, hi, hk⟩
  | construction p l g _ _ _ _ _ ht => subst ht; exact .inr (.inl ⟨rfl, hf, _, rfl⟩)
  | production n zs g _ _ _ ht => subst ht; exact .inr (.inl ⟨rfl, hf, _, rfl⟩)
  | readWaits n hi hp ha ht => subst ht; exact .inr (.inr ⟨rfl, rfl, hp, n, decode_eq_read hi, rfl, ha⟩)
  | readError n r more _ _ _ _ ht => subst ht; exact .inr (.inl ⟨rfl, rfl, r, rfl⟩)
  | readData n r more out g _ _ _ _ _ _ _ ht => subst ht; exact .inr (.inl ⟨rfl, rfl, r, rfl⟩)

/-- Settles O33: the responses of a command taken, and of a `READ` in flight. -/
theorem oneResponsePerCommand : Obligations.OneResponsePerCommand := by
  constructor
  · intro s t w rest hr hc h
    rw [step_of_command hr hc] at h
    exact (exec_effect (decode_ne_keystream w) h).response_cases hr.2 hc
  · intro s t n hl hf h
    rw [step_of_inFlight hl hf] at h
    exact takeAnswer_response_cases hf h

/-- From `s` to `t` either nothing is answered or delivered, or one response word is sent, whose `COUNT` is the number of bytes
delivered when its status is `OK`, and none is delivered when it is not (R69). -/
def CountFramesOutput (s t : State) : Prop :=
  (t.rsp = s.rsp ∧ t.dout = s.dout) ∨
  (∃ r bytes, t.rsp = s.rsp ++ [r] ∧ t.dout = s.dout ++ bytes ∧
    bytes.length = if statusField r = statusOk then (countField r).toNat else 0)

theorem countFramesOutput_of_error {s t : State} {r : Word} (hr : statusField r ≠ statusOk)
    (hrsp : t.rsp = s.rsp ++ [r]) (hdout : t.dout = s.dout) : CountFramesOutput s t :=
  .inr ⟨r, [], hrsp, by rw [hdout, List.append_nil], by rw [if_neg hr, List.length_nil]⟩

theorem countFramesOutput_of_ok {s t : State} {r : Word} {bytes : List Byte} (hr : statusField r = statusOk)
    (hrsp : t.rsp = s.rsp ++ [r]) (hdout : t.dout = s.dout ++ bytes) (hlen : bytes.length = (countField r).toNat) :
    CountFramesOutput s t :=
  .inr ⟨r, bytes, hrsp, hdout, by rw [if_pos hr, hlen]⟩

/-- XOR in place delivers as many bytes as it is given (R111). -/
theorem xorRun_length {ds out : List Byte} {g g' : Generator} (h : xorRun ds g = some (out, g')) :
    out.length = ds.length := by
  rw [xorRun_eq, Option.map_eq_some_iff] at h
  obtain ⟨⟨zs, g₁⟩, hrun, heq⟩ := h
  cases heq
  simp [prgaRun_length hrun]

theorem takeAnswer_countFramesOutput {n : Count} {s t : State} (h : takeAnswer n s = .next t) :
    CountFramesOutput s t := by
  rcases takeAnswer_cases h with ⟨-, rfl⟩ | ⟨r, rest, -, hr, rfl⟩ | ⟨r, rest, out, g, -, hr, -, hl, hx, rfl⟩
  · exact .inl ⟨rfl, rfl⟩
  · exact countFramesOutput_of_error hr rfl rfl
  · exact countFramesOutput_of_ok hr rfl rfl (by rw [xorRun_length hx, List.length_take_of_le hl])

theorem Effect.countFramesOutput {i : Instr} {s t : State} (h : Effect i s t) : CountFramesOutput s t := by
  cases h with
  | error r hr ht => subst ht; exact countFramesOutput_of_error hr rfl rfl
  | wait w l _ _ _ ht => subst ht; exact .inl ⟨rfl, rfl⟩
  | construction p l g _ _ _ _ _ ht =>
    subst ht
    exact countFramesOutput_of_ok (statusField_okWord 0#16) rfl (List.append_nil _).symm rfl
  | production n zs g _ _ hg ht =>
    subst ht
    exact countFramesOutput_of_ok (statusField_okWord n) rfl rfl (by rw [prgaRun_length hg, countField_okWord])
  | readWaits n _ _ _ ht => subst ht; exact .inl ⟨rfl, rfl⟩
  | readError n r rest _ _ _ hr ht => subst ht; exact countFramesOutput_of_error hr rfl rfl
  | readData n r rest out g _ _ _ hr _ hl hx ht =>
    subst ht
    exact countFramesOutput_of_ok hr rfl rfl (by rw [xorRun_length hx, List.length_take_of_le hl])

/-- Settles O34: each effect frames its output by the count of its response word. -/
theorem responseCountFramesTheOutput : Obligations.ResponseCountFramesTheOutput := by
  intro s t hl h
  show CountFramesOutput s t
  rcases step_effect_cases hl h with ⟨n, -, hread⟩ | ⟨-, w, rest, -, heffect⟩ | rfl
  · exact takeAnswer_countFramesOutput hread
  · exact heffect.countFramesOutput
  · exact .inl ⟨rfl, rfl⟩

/-- A `READ` whose request has gone out takes no key beat and sends nothing more downstream (R66, R111). -/
theorem takeAnswer_key_scmd {n : Count} {s t : State} (h : takeAnswer n s = .next t) :
    t.key = s.key ∧ t.scmd = s.scmd := by
  rcases takeAnswer_cases h with ⟨-, rfl⟩ | ⟨r, rest, -, -, rfl⟩ | ⟨r, rest, out, g, -, -, -, -, -, rfl⟩ <;>
    exact ⟨rfl, rfl⟩

/-- Only a construction that succeeds takes beats from `KEY` (R66). -/
theorem Effect.key_cases {i : Instr} {s t : State} (h : Effect i s t) :
    t.key = s.key ∨
    ∃ l : KeyLen, (i = .init l ∨ i = .ainit l) ∧ 1 ≤ l.toNat ∧ l.toNat ≤ 256 ∧ l.toNat ≤ s.key.length ∧
      t.rsp = s.rsp ++ [0x00000000#32] ∧ t.key = s.key.drop l.toNat := by
  cases h with
  | construction p l g hi h1 h2 hk _ ht =>
    subst ht
    exact .inr ⟨l, hi.imp And.left And.left, h1, h2, hk, rfl, rfl⟩
  | _ => subst_vars; exact .inl rfl

/-- Only a `READ` in phase ADP sends a word downstream, its own (R70, R111). -/
theorem Effect.scmd_cases {i : Instr} {s t : State} (h : Effect i s t) :
    t.scmd = s.scmd ∨
    (s.phase = .adp ∧ ∃ n, (i = .read n ∨ i = .encrypt n ∨ i = .decrypt n) ∧ t.scmd = s.scmd ++ [readWord n]) := by
  cases h with
  | readWaits n hi hp _ ht => subst ht; exact .inr ⟨hp, n, hi, rfl⟩
  | readError n r rest hi hp _ _ ht => subst ht; exact .inr ⟨hp, n, hi, rfl⟩
  | readData n r rest out g hi hp _ _ _ _ _ ht => subst ht; exact .inr ⟨hp, n, hi, rfl⟩
  | _ => subst_vars; exact .inl rfl

/-- Settles O42: of the effects only a construction changes `KEY`. -/
theorem keyTakenOnlyByConstructions : Obligations.KeyTakenOnlyByConstructions := by
  intro s t hl h hne
  rcases step_effect_cases hl h with ⟨n, -, hread⟩ | ⟨-, w, rest, hc, heffect⟩ | rfl
  · exact absurd (takeAnswer_key_scmd hread).1 hne
  · rcases heffect.key_cases with hkey | ⟨l, hi, h1, h2, hk, hrsp, hkey⟩
    · exact absurd hkey hne
    · exact ⟨hrsp, w, rest, l, hc, hi, h1, h2, hk, hkey⟩
  · exact absurd rfl hne

/-- A word with `RSV` zero by its value (R61, R74). -/
theorem packWord_eq_wordOf (op : BitVec 4) (arg : BitVec 16) : packWord op 0#12 arg = wordOf op.toNat arg.toNat := by
  apply BitVec.eq_of_toNat_eq
  have h1 := op.isLt
  have h2 := arg.isLt
  rw [packWord_toNat, wordOf, BitVec.toNat_ofNat, BitVec.toNat_ofNat]
  omega

theorem fillWord_eq_wordOf (n : Count) : fillWord n = wordOf 4 n.toNat := packWord_eq_wordOf 0x4#4 n

theorem readWord_eq_wordOf (n : Count) : readWord n = wordOf 5 n.toNat := packWord_eq_wordOf 0x5#4 n

theorem okWord_eq_wordOf (n : Count) : okWord n = wordOf 0 n.toNat := packWord_eq_wordOf 0x0#4 n

/-- Settles O43: of the effects only a `READ` changes `SCMD`, and its word is the one it was decoded from. -/
theorem onlyReadWordsGoDownstream : Obligations.OnlyReadWordsGoDownstream := by
  intro s t hl h
  rcases step_effect_cases hl h with ⟨n, -, hread⟩ | ⟨-, w, rest, hc, heffect⟩ | rfl
  · exact .inl (takeAnswer_key_scmd hread).2
  · rcases heffect.scmd_cases with hscmd | ⟨hp, n, hi, hscmd⟩
    · exact .inl hscmd
    · have hw : w = readWord n := decode_injective ((decode_eq_read hi).trans (decode_readWord n).symm)
      rw [readWord_eq_wordOf] at hw hscmd
      exact .inr ⟨hp, n, rest, hw ▸ hc, hscmd⟩
  · exact .inl rfl

/-! ### The PRGA against the reference generator (R92, R93, R94) -/

theorem swap_of_holds {m : Memory} {t : Table} (h : Holds m t) (a b : Index) :
    ∃ m', swap m a b = some m' ∧ Holds m' (t.swap a b) := by
  have hs := swap_of_read (h a) (h b)
  refine ⟨_, hs, fun c => ?_⟩
  rw [readS_of_swap hs, h a, h b, h c, Table.swap]
  split_ifs <;> simp_all

theorem prga_of_represents {g : Generator} {r : RefGen} (h : Represents g r) :
    ∃ g', prga g = some ((refStep r).1, g') ∧ Represents g' (refStep r).2 := by
  obtain ⟨hS, hi, hj⟩ := h
  obtain ⟨m, hs, hm⟩ := swap_of_holds hS (r.i + 1#8) (r.j + r.table (r.i + 1#8))
  refine ⟨{ S := m, i := r.i + 1#8, j := r.j + r.table (r.i + 1#8) }, ?_, hm, rfl, rfl⟩
  simp only [prga, add8, hi, hj, hS _, hs, hm _, refStep]

theorem prgaRun_of_represents (n : Nat) {g : Generator} {r : RefGen} (h : Represents g r) :
    ∃ g', prgaRun n g = some (refBytes n r, g') ∧ Represents g' (refAfter n r) := by
  induction n generalizing g r with
  | zero => exact ⟨g, rfl, h⟩
  | succ n ih =>
    obtain ⟨g₁, hz, h₁⟩ := prga_of_represents h
    obtain ⟨g₂, hrun, h₂⟩ := ih h₁
    exact ⟨g₂, by simp [prgaRun_succ, hz, hrun, refBytes], h₂⟩

theorem refBytes_add (a b : Nat) (r : RefGen) : refBytes (a + b) r = refBytes a r ++ refBytes b (refAfter a r) := by
  induction a generalizing r with
  | zero => simp [refBytes, refAfter]
  | succ a ih => rw [Nat.succ_add, refBytes, refBytes, refAfter, ih, List.cons_append]

theorem refAfter_add (a b : Nat) (r : RefGen) : refAfter (a + b) r = refAfter b (refAfter a r) := by
  induction a generalizing r with
  | zero => simp [refAfter]
  | succ a ih => rw [Nat.succ_add, refAfter, refAfter, ih]

/-! ### `KEYSTREAM` is a sequence of `FILL`s (R75) -/

theorem map_toNat_keystreamCounts (n : Nat) :
    (keystreamCounts n).map BitVec.toNat =
      List.replicate (n / 65535) 65535 ++ (if n % 65535 = 0 then [] else [n % 65535]) := by
  have hmod : n % 65535 < 65536 := by omega
  unfold keystreamCounts
  split_ifs <;> simp [Config.countMax, Nat.mod_eq_of_lt hmod]

/-- The counts of the expansion sum up to the operand. -/
theorem sum_keystreamCounts (n : Nat) : ((keystreamCounts n).map BitVec.toNat).sum = n := by
  have hdiv := Nat.div_add_mod' n 65535
  rw [map_toNat_keystreamCounts]
  split_ifs with h
  · simpa [h] using hdiv
  · simpa using hdiv

theorem execFill_of_represents {s : State} {r : RefGen} (hp : s.phase = .gen) (h : Represents s.gen r) (n : Count) :
    ∃ g, execFill n s =
        .next { s with gen := g, rsp := s.rsp ++ [wordOf 0 n.toNat], dout := s.dout ++ refBytes n.toNat r } ∧
      Represents g (refAfter n.toNat r) := by
  obtain ⟨g, hrun, hg⟩ := prgaRun_of_represents n.toNat h
  refine ⟨g, ?_, hg⟩
  simp [execFill, inGen, hp, produce, hrun, respond, emit, okWord_eq_wordOf]

theorem execFill_of_phase_ne {s : State} (hp : s.phase ≠ .gen) (n : Count) :
    execFill n s = .next { s with rsp := s.rsp ++ [0x30000000#32] } := by
  simp [execFill, inGen, hp, respond]

theorem fillAll_cons (n : Count) (ns : List Count) {s t : State} (h : execFill n s = .next t) :
    fillAll (n :: ns) s = fillAll ns t := by
  simp only [fillAll, h]

/-- `FILL`s one after the other in phase GEN are one run of the PRGA over the sum of their counts (R93). -/
theorem fillAll_of_represents (ns : List Count) {s : State} {r : RefGen} (hp : s.phase = .gen)
    (h : Represents s.gen r) :
    ∃ g, fillAll ns s =
        .next { s with gen := g, rsp := s.rsp ++ ns.map (fun c => wordOf 0 c.toNat),
                       dout := s.dout ++ refBytes (ns.map BitVec.toNat).sum r } ∧
      Represents g (refAfter (ns.map BitVec.toNat).sum r) := by
  induction ns generalizing s r with
  | nil => exact ⟨s.gen, by simp [fillAll, refBytes], h⟩
  | cons n ns ih =>
    obtain ⟨g₁, hfill, h₁⟩ := execFill_of_represents hp h n
    obtain ⟨g₂, hrest, h₂⟩ := ih (s := { s with gen := g₁, rsp := s.rsp ++ [wordOf 0 n.toNat],
                                                dout := s.dout ++ refBytes n.toNat r }) hp h₁
    refine ⟨g₂, ?_, ?_⟩
    · rw [fillAll_cons n ns hfill, hrest]
      simp [refBytes_add]
    · rwa [List.map_cons, List.sum_cons, refAfter_add]

theorem fillAll_of_phase_ne (ns : List Count) {s : State} (hp : s.phase ≠ .gen) :
    fillAll ns s = .next { s with rsp := s.rsp ++ List.replicate ns.length 0x30000000#32 } := by
  induction ns generalizing s with
  | nil => simp [fillAll]
  | cons n ns ih =>
    rw [fillAll_cons n ns (execFill_of_phase_ne hp n), ih (s := { s with rsp := s.rsp ++ [0x30000000#32] }) hp]
    simp [List.replicate_succ]

/-- Settles O18: the counts of the expansion sum up to `n`, so its `FILL`s run the PRGA `n` times. -/
theorem keystreamCompletes : Obligations.KeystreamCompletes := by
  refine ⟨fun s r n hp h => ?_, fun s n hp => fillAll_of_phase_ne (keystreamCounts n) hp⟩
  simpa only [sum_keystreamCounts, exec, execKeystream] using fillAll_of_represents (keystreamCounts n) hp h

/-- The words of `KEYSTREAM n` (R75). -/
theorem encode_keystream (n : Nat) :
    encode (.keystream n) =
      List.replicate (n / 65535) (wordOf 4 65535) ++ (if n % 65535 = 0 then [] else [wordOf 4 (n % 65535)]) := by
  have hwords : encode (.keystream n) = ((keystreamCounts n).map BitVec.toNat).map (wordOf 4) := by
    simp [encode, fillWord_eq_wordOf]
  rw [hwords, map_toNat_keystreamCounts]
  split_ifs <;> simp

/-- Settles O7: `ENCRYPT` and `DECRYPT` are `READ` by definition; `KEYSTREAM` by its words and by O18. -/
theorem pseudoOperationsExpand : Obligations.PseudoOperationsExpand := by
  refine ⟨fun n s => ⟨by rw [encode, readWord_eq_wordOf], by rw [encode, readWord_eq_wordOf], rfl, rfl⟩,
    fun n _ => encode_keystream n, fun s r n _ hp h => ?_⟩
  obtain ⟨g, hexec, hg⟩ := keystreamCompletes.1 s r n hp h
  exact ⟨_, hexec, rfl, hg⟩

end Sys2Proof.Machine

/-! PROOF. The family of 40_keystream_generator.md: the key schedule against the reference (R90), what a construction reads of its
key (R8, R97, R98), `NEXT` and `FILL` as runs of the PRGA (R92, R93, R96), and the frames of the generator's operations and of the
constructions (R92, R93, R110, R151, R154). -/

namespace Sys2Proof.Machine

/-! ### The key schedule against the reference (R90) -/

theorem refKeyByte_of_keyByte {key : List Byte} {p : Nat} {k : Byte} (h : keyByte key p = some k) :
    refKeyByte key p = k := by
  rw [keyByte] at h
  rw [refKeyByte, List.getD_eq_getElem?_getD, h, Option.getD_some]

theorem holds_of_swap {m m' : Memory} {t : Table} {a b : Index} (hm : Holds m t) (hs : swap m a b = some m') :
    Holds m' (t.swap a b) := by
  obtain ⟨m₁, hs₁, hm₁⟩ := swap_of_holds hm a b
  cases hs.symm.trans hs₁
  exact hm₁

/-- Iteration `p` takes the reference after `p` iterations to the reference after `p + 1` (R90, R91). -/
theorem holds_of_scheduleStep {key : List Byte} {p : Nat} {m m' : Memory} {jt : Byte}
    (hm : Holds m (refSchedule key p).1) (h : scheduleStep key p m (refSchedule key p).2 = some (m', jt)) :
    Holds m' (refSchedule key (p + 1)).1 ∧ jt = (refSchedule key (p + 1)).2 := by
  obtain ⟨x, k, hx, hk, hjt, hs⟩ := scheduleStep_cases h
  cases hx.symm.trans (hm _)
  cases refKeyByte_of_keyByte hk
  subst hjt
  exact ⟨holds_of_swap hm hs, rfl⟩

theorem holds_of_scheduleFrom {key : List Byte} {p n : Nat} {m m' : Memory} (hm : Holds m (refSchedule key p).1)
    (h : scheduleFrom key (List.range' p n) m (refSchedule key p).2 = some m') :
    Holds m' (refSchedule key (p + n)).1 := by
  induction n generalizing p m with
  | zero =>
    cases h
    exact hm
  | succ n ih =>
    simp only [List.range'_succ, scheduleFrom] at h
    split at h
    · rename_i m₁ jt₁ hstep
      obtain ⟨hm₁, rfl⟩ := holds_of_scheduleStep hm hstep
      rw [← Nat.succ_add_eq_add_succ]
      exact ih hm₁ h
    · cases h

/-- A construction that succeeds leaves the reference generator of its key (R90). -/
theorem represents_of_constructed {key : List Byte} {g : Generator} (h : constructed key = some g) :
    Represents g (refConstructed key) := by
  obtain ⟨hsched, hi, hj⟩ := constructed_cases h
  rw [keySchedule, List.range_eq_range'] at hsched
  exact ⟨holds_of_scheduleFrom (p := 0) readS_identityTable hsched, hi, hj⟩

/-- `INIT` with its key beats there succeeds, and reads nothing of the state but these beats (R90). -/
theorem exec_init_of_beats {s : State} {l : KeyLen} (h1 : 1 ≤ l.toNat) (h2 : l.toNat ≤ 256)
    (hk : l.toNat ≤ s.key.length) :
    ∃ g, constructed (s.key.take l.toNat) = some g ∧
      exec (.init l) s =
        .next { s with phase := .gen, gen := g, key := s.key.drop l.toNat, rsp := s.rsp ++ [0x00000000#32] } := by
  have hne : s.key.take l.toNat ≠ [] := by
    rw [← List.length_pos_iff, List.length_take]
    omega
  obtain ⟨g, hg⟩ := constructed_of_ne_nil hne
  exact ⟨g, hg, construct_of_constructed .gen (initWord l) h1 h2 hk hg⟩

/-- Settles O8: the schedule runs along the reference schedule, and it only swaps, which keeps the canonical form. -/
theorem initStartsGeneratorSession : Obligations.InitStartsGeneratorSession := by
  refine fun s l => ⟨construct_of_emptyKey .gen (initWord l) s, fun h1 h2 hk => ?_⟩
  obtain ⟨g, hg, hexec⟩ := exec_init_of_beats h1 h2 hk
  exact ⟨g, hexec, represents_of_constructed hg, constructed_keeps keptBySwap_wf hg identityTable_wf⟩

/-! ### What a construction reads of its key (R8, R97, R98) -/

theorem scheduleFrom_congr {k k' : List Byte} {ps : List Nat} (hkey : ∀ p ∈ ps, keyByte k p = keyByte k' p)
    (m : Memory) (jt : Byte) : scheduleFrom k ps m jt = scheduleFrom k' ps m jt := by
  induction ps generalizing m jt with
  | nil => rfl
  | cons p ps ih =>
    obtain ⟨hp, hps⟩ := List.forall_mem_cons.mp hkey
    have hstep : scheduleStep k p m jt = scheduleStep k' p m jt := by rw [scheduleStep, scheduleStep, hp]
    simp only [scheduleFrom, hstep, ih hps]

theorem constructed_congr {k k' : List Byte} (hkey : ∀ p, p < 256 → keyByte k p = keyByte k' p) :
    constructed k = constructed k' := by
  have hsched : keySchedule k = keySchedule k' :=
    scheduleFrom_congr (fun p hp => hkey p (List.mem_range.mp hp)) identityTable 0#8
  rw [constructed, constructed, hsched]

/-- Settles O12: the schedule reads the key by `keyByte` at the positions 0 to 255 only, and `INIT` runs it on its beats. -/
theorem sameKeySequenceSameGenerator : Obligations.SameKeySequenceSameGenerator := by
  refine ⟨fun k k' => constructed_congr, fun s s' l l' h1 h2 h1' h2' hk hk' hkey => ?_⟩
  obtain ⟨g, hg, hexec⟩ := exec_init_of_beats h1 h2 hk
  obtain ⟨g', hg', hexec'⟩ := exec_init_of_beats h1' h2' hk'
  have hgen : g = g' := Option.some.inj (hg.symm.trans ((constructed_congr hkey).trans hg'))
  exact ⟨_, _, hexec, hexec', hgen, rfl⟩

theorem keyByte_of_lt_length {key : List Byte} {p : Nat} (hp : p < key.length) : keyByte key p = key[p]? := by
  rw [keyByte, Nat.mod_eq_of_lt hp]

/-- Settles O13: below 256 the index `p mod L` is `p` for the key and for its first 256 bytes. -/
theorem longKeyUsesFirst256Bytes : Obligations.LongKeyUsesFirst256Bytes := by
  intro key hlong
  have hkey : ∀ p, p < 256 → keyByte key p = key[p]? := fun p hp => keyByte_of_lt_length (hp.trans hlong)
  refine ⟨hkey, constructed_congr fun p hp => ?_⟩
  have htake : p < (key.take 256).length := by
    rw [List.length_take]
    omega
  rw [hkey p hp, keyByte_of_lt_length htake, List.getElem?_take_of_lt hp]

/-! ### `NEXT` and `FILL` as runs of the PRGA (R92, R93, R96) -/

/-- Settles O16: `FILL` runs the PRGA along the reference, and is refused outside GEN. -/
theorem fillDeliversNBytes : Obligations.FillDeliversNBytes :=
  ⟨fun _ _ n hp h => execFill_of_represents hp h n, fun _ n hp => execFill_of_phase_ne hp n⟩

/-- Settles O15: `NEXT` is `FILL 1`. -/
theorem nextDeliversOneByte : Obligations.NextDeliversOneByte :=
  ⟨fun _ _ hp h => execFill_of_represents hp h 1#16, fun _ hp => execFill_of_phase_ne hp 1#16⟩

theorem prgaRun_one {g g' : Generator} {z : Byte} (h : prga g = some (z, g')) : prgaRun 1 g = some ([z], g') := by
  simp [prgaRun, h]

theorem prgaRun_succ_cases {n : Nat} {g g' : Generator} {zs : List Byte} (h : prgaRun (n + 1) g = some (zs, g')) :
    ∃ z g₁ ws, prga g = some (z, g₁) ∧ prgaRun n g₁ = some (ws, g') ∧ zs = z :: ws := by
  simp only [prgaRun_succ, Option.bind_eq_some_iff, Option.map_eq_some_iff] at h
  obtain ⟨⟨z, g₁⟩, hz, ⟨ws, g₂⟩, hrun, heq⟩ := h
  cases heq
  exact ⟨z, g₁, ws, hz, hrun, rfl⟩

theorem prgaRun_add {a b : Nat} {g g₁ g₂ : Generator} {zs ws : List Byte} (ha : prgaRun a g = some (zs, g₁))
    (hb : prgaRun b g₁ = some (ws, g₂)) : prgaRun (a + b) g = some (zs ++ ws, g₂) := by
  induction a generalizing g zs with
  | zero =>
    cases ha
    simpa using hb
  | succ a ih =>
    obtain ⟨z, g', zs', hz, hrun, rfl⟩ := prgaRun_succ_cases ha
    simp [Nat.succ_add, prgaRun_succ, hz, ih hrun]

theorem exec_fill_of_prgaRun {s : State} {n : Count} {zs : List Byte} {g : Generator} (hp : s.phase = .gen)
    (h : prgaRun n.toNat s.gen = some (zs, g)) :
    exec (.fill n) s = .next { s with gen := g, rsp := s.rsp ++ [okWord n], dout := s.dout ++ zs } := by
  simp [exec, execFill, inGen, hp, produce, h, respond, emit]

/-- `n` `NEXT`s deliver the bytes of `n` PRGA steps, with one response `0x00000001` each (R92). -/
theorem nextTimes_of_prgaRun {n : Nat} {s : State} {zs : List Byte} {g : Generator} (hp : s.phase = .gen)
    (h : prgaRun n s.gen = some (zs, g)) :
    nextTimes n s =
      .next { s with gen := g, rsp := s.rsp ++ List.replicate n 0x00000001#32, dout := s.dout ++ zs } := by
  induction n generalizing s zs with
  | zero =>
    cases h
    simp [nextTimes]
  | succ n ih =>
    obtain ⟨z, g₁, zs', hz, hrun, rfl⟩ := prgaRun_succ_cases h
    have hnext : exec .next s =
        .next { s with gen := g₁, rsp := s.rsp ++ [0x00000001#32], dout := s.dout ++ [z] } :=
      exec_fill_of_prgaRun (n := 1#16) hp (prgaRun_one hz)
    simp only [nextTimes, hnext]
    rw [ih (s := { s with gen := g₁, rsp := s.rsp ++ [0x00000001#32], dout := s.dout ++ [z] }) hp hrun]
    simp [List.replicate_succ]

/-- Settles O17: `FILL n` and `n` `NEXT`s are both the run of `n` PRGA steps, and two runs are one of the sum. -/
theorem fillIsRepeatedNext : Obligations.FillIsRepeatedNext := by
  intro s hp hfull
  constructor
  · intro n
    obtain ⟨zs, g, hrun⟩ := prgaRun_of_full n.toNat hfull
    exact ⟨_, _, exec_fill_of_prgaRun hp hrun, nextTimes_of_prgaRun hp hrun, rfl, rfl, by rw [okWord_eq_wordOf], rfl⟩
  · intro a b hab
    obtain ⟨zs, g₁, ha⟩ := prgaRun_of_full a.toNat hfull
    obtain ⟨ws, g₂, hb⟩ := prgaRun_of_full b.toNat (prgaRun_keeps keptBySwap_full ha hfull)
    have hsum : (a + b).toNat = a.toNat + b.toNat := BitVec.toNat_add_of_lt (Nat.lt_succ_of_le hab)
    have hboth : prgaRun (a + b).toNat s.gen = some (zs ++ ws, g₂) := hsum ▸ prgaRun_add ha hb
    exact ⟨_, _, _, exec_fill_of_prgaRun hp ha,
      exec_fill_of_prgaRun (s := { s with gen := g₁, rsp := s.rsp ++ [okWord a], dout := s.dout ++ zs }) hp hb,
      exec_fill_of_prgaRun hp hboth, rfl, List.append_assoc _ _ _⟩

/-! ### The frame of `NEXT`, `FILL` and `KEYSTREAM` (R92, R93, R154) -/

/-- From `s` to `t` the PRGA has made `n` steps: their bytes are delivered, some words are answered, and nothing else changes. -/
def ProducedBytes (n : Nat) (s t : State) : Prop :=
  ∃ zs g words, prgaRun n s.gen = some (zs, g) ∧
    t = { s with gen := g, rsp := s.rsp ++ words, dout := s.dout ++ zs }

theorem producedBytes_zero (s : State) : ProducedBytes 0 s s :=
  ⟨[], s.gen, [], rfl, by simp only [List.append_nil]⟩

theorem ProducedBytes.trans {a b : Nat} {s t u : State} (hst : ProducedBytes a s t) (htu : ProducedBytes b t u) :
    ProducedBytes (a + b) s u := by
  obtain ⟨zs, g₁, words, ha, rfl⟩ := hst
  obtain ⟨ws, g₂, words', hb, rfl⟩ := htu
  exact ⟨zs ++ ws, g₂, words ++ words', prgaRun_add ha hb, by simp only [List.append_assoc]⟩

theorem execFill_producedBytes {n : Count} {s t : State} (hp : s.phase = .gen) (h : execFill n s = .next t) :
    ProducedBytes n.toNat s t ∧ t.phase = .gen := by
  rcases inGen_cases h with ⟨-, h⟩ | ⟨hne, -⟩
  · obtain ⟨zs, g, hrun, rfl⟩ := produce_cases h
    exact ⟨⟨zs, g, [okWord n], hrun, rfl⟩, hp⟩
  · exact absurd hp hne

theorem fillAll_producedBytes {ns : List Count} {s t : State} (hp : s.phase = .gen) (h : fillAll ns s = .next t) :
    ProducedBytes (ns.map BitVec.toNat).sum s t := by
  induction ns generalizing s with
  | nil =>
    cases h
    exact producedBytes_zero t
  | cons n ns ih =>
    rw [fillAll] at h
    split at h
    · rename_i s₁ hfill
      obtain ⟨hprod, hp₁⟩ := execFill_producedBytes hp hfill
      rw [List.map_cons, List.sum_cons]
      exact hprod.trans (ih hp₁ h)
    · cases h
    · cases h

theorem fillAll_singleton (n : Count) (s : State) : fillAll [n] s = execFill n s := by
  cases h : execFill n s <;> simp [fillAll, h]

/-- `NEXT`, `FILL` and `KEYSTREAM` are sequences of `FILL`s, of as many bytes together as the operation delivers (R75, R92). -/
theorem exec_eq_fillAll {i : Instr} {n : Nat}
    (hi : (i = .next ∧ n = 1) ∨ (∃ c : Count, i = .fill c ∧ n = c.toNat) ∨ i = .keystream n) (s : State) :
    ∃ ns : List Count, exec i s = fillAll ns s ∧ (ns.map BitVec.toNat).sum = n := by
  rcases hi with ⟨rfl, rfl⟩ | ⟨c, rfl, rfl⟩ | rfl
  · exact ⟨[1#16], (fillAll_singleton 1#16 s).symm, rfl⟩
  · exact ⟨[c], (fillAll_singleton c s).symm, List.sum_singleton⟩
  · exact ⟨keystreamCounts n, rfl, sum_keystreamCounts n⟩

/-- The entries a PRGA step exchanges are those at the new cursors (R92). -/
theorem storedBy_succ {g g' : Generator} {z : Byte} (n : Nat) (h : prga g = some (z, g')) :
    storedBy (n + 1) g = g'.i :: g'.j :: storedBy n g' := by
  obtain ⟨x, -, -, hx, hi, hj, -⟩ := prga_cases h
  simp only [storedBy, swapAddresses, add8, hx, h, hi, hj]

/-- Every entry but those that `n` PRGA steps exchange reads as before (R92, R93). -/
theorem readS_of_prgaRun {n : Nat} {g g' : Generator} {zs : List Byte} (h : prgaRun n g = some (zs, g')) {a : Index}
    (ha : a ∉ storedBy n g) : readS g'.S a = readS g.S a := by
  induction n generalizing g zs with
  | zero =>
    cases h
    rfl
  | succ n ih =>
    obtain ⟨z, g₁, zs', hz, hrun, rfl⟩ := prgaRun_succ_cases h
    simp only [storedBy_succ n hz, List.mem_cons, not_or] at ha
    obtain ⟨hai, haj, hrest⟩ := ha
    obtain ⟨-, -, -, -, -, -, hs, -⟩ := prga_cases hz
    calc readS g'.S a = readS g₁.S a := ih hrun hrest
      _ = readS g.S a := by rw [readS_of_swap hs, if_neg haj, if_neg hai]

/-- Settles O45: as a sequence of `FILL`s the operation makes its PRGA steps in phase GEN, and is only refused outside it. -/
theorem frameOfTheGeneratorOperations : Obligations.FrameOfTheGeneratorOperations := by
  intro i n s t hi h
  obtain ⟨ns, hexec, rfl⟩ := exec_eq_fillAll hi s
  rw [hexec] at h
  by_cases hp : s.phase = .gen
  · obtain ⟨zs, g, words, hrun, rfl⟩ := fillAll_producedBytes hp h
    exact ⟨rfl, rfl, rfl, rfl, rfl, rfl, rfl, rfl, ⟨words, rfl⟩, ⟨zs, rfl⟩, fun _ => readS_of_prgaRun hrun,
      fun hne => absurd hp hne⟩
  · cases (fillAll_of_phase_ne ns hp).symm.trans h
    exact ⟨rfl, rfl, rfl, rfl, rfl, rfl, rfl, rfl, ⟨_, rfl⟩, ⟨[], (List.append_nil _).symm⟩, fun _ _ => rfl,
      fun _ => ⟨rfl, rfl⟩⟩

/-! ### The frame of the constructions (R90, R110, R151) -/

theorem exec_eq_construct {i : Instr} {l : KeyLen} (hi : i = .init l ∨ i = .ainit l) (s : State) :
    ∃ p w, exec i s = construct p w l s := by
  rcases hi with rfl | rfl
  · exact ⟨.gen, initWord l, rfl⟩
  · exact ⟨.adp, ainitWord l, rfl⟩

/-- Settles O47: the frame of each thing a construction can do: two refusals, a wait, and a new session. -/
theorem frameOfTheConstructions : Obligations.FrameOfTheConstructions := by
  intro i l s t hi h
  obtain ⟨p, w, hexec⟩ := exec_eq_construct hi s
  rw [hexec] at h
  rcases construct_cases h with ⟨-, rfl⟩ | ⟨-, rfl⟩ | ⟨-, -, -, rfl⟩ | ⟨-, -, -, g, -, rfl⟩
  · exact ⟨rfl, rfl, rfl, rfl, rfl, rfl, fun _ => ⟨rfl, rfl, rfl⟩, fun _ => rfl⟩
  · exact ⟨rfl, rfl, rfl, rfl, rfl, rfl, fun _ => ⟨rfl, rfl, rfl⟩, fun _ => rfl⟩
  · exact ⟨rfl, rfl, rfl, rfl, rfl, rfl, fun _ => ⟨rfl, rfl, rfl⟩, fun hne => absurd rfl hne⟩
  · exact ⟨rfl, rfl, rfl, rfl, rfl, rfl, fun hne => absurd rfl hne, fun _ => rfl⟩

end Sys2Proof.Machine

/-! PROOF. The family of 41_stream_adapter.md: XOR in place against the PRGA (R7, R111), what becomes of a source's answer that is
there, missing or late (R111 to R114, R190), the construction of an adapter session (R110), and the frame of the reads (R154). -/

namespace Sys2Proof.Machine

/-! ### The construction of an adapter session (R110) -/

/-- Settles O9: both constructions run the schedule on the same key beats, and differ in the phase only. -/
theorem ainitStartsAdapterSession : Obligations.AinitStartsAdapterSession := by
  refine fun s l => ⟨construct_of_emptyKey .adp (ainitWord l) s, fun h1 h2 hk => ?_⟩
  obtain ⟨g, hg, hinit⟩ := exec_init_of_beats h1 h2 hk
  exact ⟨g, construct_of_constructed .adp (ainitWord l) h1 h2 hk hg, hinit, represents_of_constructed hg⟩

/-! ### XOR in place (R7, R111) -/

theorem xorRun_of_prgaRun {ds zs : List Byte} {g g' : Generator} (h : prgaRun ds.length g = some (zs, g')) :
    xorRun ds g = some (List.zipWith (fun d z => d ^^^ z) ds zs, g') := by
  rw [xorRun_eq, h, Option.map_some]

theorem xorRun_of_represents (ds : List Byte) {g : Generator} {r : RefGen} (h : Represents g r) :
    ∃ g', xorRun ds g = some (refCipher ds r, g') ∧ Represents g' (refAfter ds.length r) := by
  obtain ⟨g', hrun, hg'⟩ := prgaRun_of_represents ds.length h
  exact ⟨g', xorRun_of_prgaRun hrun, hg'⟩

/-- The generator after an XOR in place depends on the data through their number only. -/
theorem xorRun_of_length_eq {ds es out : List Byte} {g g' : Generator} (hlen : es.length = ds.length)
    (h : xorRun ds g = some (out, g')) : ∃ out', xorRun es g = some (out', g') ∧ out'.length = out.length := by
  obtain ⟨zs, hrun⟩ := prgaRun_of_xorRun h
  have hes := xorRun_of_prgaRun (hlen ▸ hrun)
  exact ⟨_, hes, by rw [xorRun_length hes, xorRun_length h, hlen]⟩

theorem zipWith_xor_replicate_zero (zs : List Byte) :
    List.zipWith (fun d z => d ^^^ z) (List.replicate zs.length 0x00#8) zs = zs := by
  induction zs with
  | nil => rfl
  | cons z zs ih => rw [List.length_cons, List.replicate_succ, List.zipWith_cons_cons, ih, BitVec.zero_xor]

/-- Zero bytes XORed with the keystream are the keystream (R7). -/
theorem xorRun_replicate_zero {n : Nat} {zs : List Byte} {g g' : Generator} (h : prgaRun n g = some (zs, g')) :
    xorRun (List.replicate n 0x00#8) g = some (zs, g') := by
  obtain rfl := prgaRun_length h
  rw [xorRun_of_prgaRun (by rwa [List.length_replicate]), zipWith_xor_replicate_zero]

/-! ### A source's answer by its cases (R111, R112, R113, R114, R190) -/

theorem takeAnswer_of_incomplete {n : Count} {s : State} (h : AnswerIncomplete n s) :
    takeAnswer n s = .next { s with inFlight := some n } := by
  rcases h with hs | ⟨r, rest, hs, hr, hn, hl⟩
  · simp only [takeAnswer, hs, waitFor]
  · have ha : answerOf n r = .data (countField r).toNat := by simp [answerOf, hr, hn, statusOk]
    have htake : takeData (countField r).toNat { s with srsp := rest } = none := takeData_eq_none.mpr hl
    simp only [takeAnswer, hs, ha, htake, waitFor]

theorem takeAnswer_of_error {n : Count} {s : State} {r : Word} {rest : List Word} (hs : s.srsp = r :: rest)
    (hr : statusField r ≠ statusOk) :
    takeAnswer n s = .next { s with srsp := rest, inFlight := none, rsp := s.rsp ++ [r] } := by
  have ha : answerOf n r = .error := if_pos hr
  simp only [takeAnswer, hs, ha, respond]

theorem takeAnswer_of_data {n : Count} {s : State} {r : Word} {rest : List Word} {out : List Byte} {g : Generator}
    (hs : s.srsp = r :: rest) (hr : statusField r = statusOk) (hn : (countField r).toNat ≤ n.toNat)
    (hl : (countField r).toNat ≤ s.sdin.length) (hx : xorRun (s.sdin.take (countField r).toNat) s.gen = some (out, g)) :
    takeAnswer n s =
      .next { s with gen := g, inFlight := none, rsp := s.rsp ++ [r], dout := s.dout ++ out, srsp := rest,
                     sdin := s.sdin.drop (countField r).toNat } := by
  have ha : answerOf n r = .data (countField r).toNat := by simp [answerOf, hr, hn]
  have htake : takeData (countField r).toNat { s with srsp := rest } =
      some (s.sdin.take (countField r).toNat, { s with srsp := rest, sdin := s.sdin.drop (countField r).toNat }) :=
    if_pos hl
  simp only [takeAnswer, hs, ha, htake, transform, hx, respond, emit]

/-- The answer `OK` with count 0 takes no beat and no keystream byte (R114). -/
theorem takeAnswer_of_endOfStream {n : Count} {s : State} {r : Word} {rest : List Word} (hs : s.srsp = r :: rest)
    (hr : statusField r = statusOk) (hc : countField r = 0x0000#16) :
    takeAnswer n s = .next { s with srsp := rest, inFlight := none, rsp := s.rsp ++ [r] } := by
  have hzero : (countField r).toNat = 0 := by rw [hc, BitVec.toNat_zero]
  have hx : xorRun (s.sdin.take (countField r).toNat) s.gen = some ([], s.gen) := by
    rw [hzero, List.take_zero, xorRun_nil]
  rw [takeAnswer_of_data hs hr (by omega) (by omega) hx, hzero, List.drop_zero, List.append_nil]

/-- Taking an answer does not read whether the `READ` was in flight before; every outcome writes it anew. -/
theorem takeAnswer_inFlight (n : Count) (s : State) (f : Option Count) :
    takeAnswer n { s with inFlight := f } = takeAnswer n s := by
  cases hs : s.srsp with
  | nil => simp only [takeAnswer, hs, waitFor]
  | cons r rest =>
    cases ha : answerOf n r with
    | error => simp only [takeAnswer, hs, ha, respond]
    | overCount => simp only [takeAnswer, hs, ha]
    | data count => by_cases hl : count ≤ s.sdin.length <;> simp [takeAnswer, hs, ha, takeData, hl, transform, waitFor]

theorem step_of_waiting {s : State} (hl : s.resetLine = false) (n : Count) :
    step { s with inFlight := some n } = takeAnswer n s :=
  (step_of_inFlight (s := { s with inFlight := some n }) hl rfl).trans (takeAnswer_inFlight n s (some n))

/-! ### The request (R111, R154) -/

theorem readSource_of_adp {s : State} (hp : s.phase = .adp) (n : Count) :
    readSource n s = takeAnswer n (sendDown (wordOf 5 n.toNat) s) := by
  rw [readSource, if_pos hp, readWord_eq_wordOf]

theorem readSource_of_phase_ne {s : State} (hp : s.phase ≠ .adp) (n : Count) :
    readSource n s = .next { s with rsp := s.rsp ++ [0x30000000#32] } := by
  rw [readSource, if_neg hp, raise_eq, errorWord_notReady, respond]

/-- The three spellings of `READ n` have one meaning (R75, R116). -/
theorem exec_eq_readSource {i : Instr} {n : Count} (hi : i = .read n ∨ i = .encrypt n ∨ i = .decrypt n) (s : State) :
    exec i s = readSource n s := by
  rcases hi with rfl | rfl | rfl <;> rfl

theorem exec_read_of_adp {s : State} (hp : s.phase = .adp) (n : Count) :
    exec (.read n) s = takeAnswer n (sendDown (wordOf 5 n.toNat) s) :=
  readSource_of_adp hp n

/-- Settles O22: the answer is taken alike after the request and by a `READ` in flight. -/
theorem endOfStreamPasses : Obligations.EndOfStreamPasses := by
  refine fun s n r rest hs hr hc => ⟨fun hp => ?_, fun hl hf => ?_⟩
  · rw [exec_read_of_adp hp]
    exact takeAnswer_of_endOfStream hs hr hc
  · rw [step_of_inFlight hl hf]
    exact takeAnswer_of_endOfStream hs hr hc

/-- Settles O20: the answer's data are XORed with the reference keystream, an error word passes, and outside ADP `READ` is refused. -/
theorem readTransformsTheAnswer : Obligations.ReadTransformsTheAnswer := by
  refine ⟨fun s n r0 r rest hp h hs hr hn hl => ?_, fun s n r rest hp hs hr => ?_,
    fun s n hp => readSource_of_phase_ne hp n⟩
  · obtain ⟨g, hx, hg⟩ := xorRun_of_represents (s.sdin.take (countField r).toNat) h
    rw [List.length_take_of_le hl] at hg
    have hread := (readSource_of_adp hp n).trans (takeAnswer_of_data (s := sendDown _ s) hs hr hn hl hx)
    exact ⟨_, hread, hread, hread, rfl, hg⟩
  · rw [exec_read_of_adp hp]
    exact takeAnswer_of_error hs hr

/-- Settles O25: without an answer the `READ` goes in flight with its request sent, and the answer is then taken as at once. -/
theorem lateAnswerSameAsEarly : Obligations.LateAnswerSameAsEarly := by
  intro s n r bytes hp hl hs
  refine ⟨_, (exec_read_of_adp hp n).trans (takeAnswer_of_incomplete (.inl hs)), ?_⟩
  exact (step_of_waiting (s := sendDown _ (sourceAnswers r bytes s)) hl n).trans
    (exec_read_of_adp (s := sourceAnswers r bytes s) hp n).symm

/-! ### The data of an answer and the generator (R7, R111) -/

/-- Settles O28: zero bytes XORed with the keystream are the bytes of as many PRGA steps, which is what `FILL` delivers. -/
theorem zeroDataDeliverTheKeystream : Obligations.ZeroDataDeliverTheKeystream := by
  intro s n c rest hp hfull hs hn hl hzero
  obtain ⟨zs, g, hrun⟩ := prgaRun_of_full c.toNat hfull
  rw [← okWord_eq_wordOf] at hs
  have hcount : (countField (okWord c)).toNat = c.toNat := by rw [countField_okWord]
  have hx : xorRun (s.sdin.take (countField (okWord c)).toNat) s.gen = some (zs, g) := by
    rw [hcount, hzero, xorRun_replicate_zero hrun]
  have hread := takeAnswer_of_data (s := sendDown (wordOf 5 n.toNat) s) hs (statusField_okWord c) (hcount.trans_le hn)
    (hcount.trans_le hl) hx
  exact ⟨_, _, (exec_read_of_adp hp n).trans hread, exec_fill_of_prgaRun (s := { s with phase := .gen }) rfl hrun, rfl, rfl⟩

/-- Two states that may differ in the bytes delivered, but not in their number, nor in the session and the responses. -/
def AgreeButForData (t u : State) : Prop :=
  u.gen = t.gen ∧ u.phase = t.phase ∧ u.rsp = t.rsp ∧ u.dout.length = t.dout.length

theorem AnswerIncomplete.of_other_data {n : Count} {s : State} {other : List Byte}
    (hlen : other.length = s.sdin.length) (h : AnswerIncomplete n s) : AnswerIncomplete n { s with sdin := other } := by
  simpa only [AnswerIncomplete, hlen] using h

/-- With as many other bytes on `SDIN` the answer is taken in the same way (R111). -/
theorem takeAnswer_of_other_data {n : Count} {s t : State} {other : List Byte} (hlen : other.length = s.sdin.length)
    (h : takeAnswer n s = .next t) :
    ∃ u, takeAnswer n { s with sdin := other } = .next u ∧ AgreeButForData t u := by
  rcases takeAnswer_cases h with ⟨ha, rfl⟩ | ⟨r, rest, hs, hr, rfl⟩ | ⟨r, rest, out, g, hs, hr, hn, hl, hx, rfl⟩
  · exact ⟨_, takeAnswer_of_incomplete (ha.of_other_data hlen), rfl, rfl, rfl, rfl⟩
  · exact ⟨_, takeAnswer_of_error (s := { s with sdin := other }) hs hr, rfl, rfl, rfl, rfl⟩
  · have htake : (other.take (countField r).toNat).length = (s.sdin.take (countField r).toNat).length := by
      rw [List.length_take, List.length_take, hlen]
    obtain ⟨out', hx', hout⟩ := xorRun_of_length_eq htake hx
    refine ⟨_, takeAnswer_of_data (s := { s with sdin := other }) hs hr hn (hlen ▸ hl) hx', rfl, rfl, rfl, ?_⟩
    rw [List.length_append, List.length_append, hout]

/-- Settles O29: in phase ADP by the number of data beats alone, and elsewhere `SDIN` is not looked at. -/
theorem dataDoNotInfluenceTheGenerator : Obligations.DataDoNotInfluenceTheGenerator := by
  intro s t n other hlen h
  by_cases hp : s.phase = .adp
  · rw [exec_read_of_adp hp] at h
    rw [exec_read_of_adp (s := { s with sdin := other }) hp]
    exact takeAnswer_of_other_data (s := sendDown (wordOf 5 n.toNat) s) hlen h
  · cases (readSource_of_phase_ne hp n).symm.trans h
    exact ⟨_, readSource_of_phase_ne (s := { s with sdin := other }) hp n, rfl, rfl, rfl, rfl⟩

/-! ### The frame of `READ`, `ENCRYPT` and `DECRYPT` (R111, R113, R154, R190) -/

/-- From `s` to `t` as many beats are taken from `SDIN` as bytes are delivered, and the PRGA makes that many steps. -/
def DeliversByPrga (s t : State) : Prop :=
  ∃ bytes zs, t.dout = s.dout ++ bytes ∧ t.sdin = s.sdin.drop bytes.length ∧
    prgaRun bytes.length s.gen = some (zs, t.gen) ∧
    (bytes = [] → t.gen = s.gen) ∧
    ∀ a : Index, a ∉ storedBy bytes.length s.gen → readS t.gen.S a = readS s.gen.S a

theorem deliversByPrga_of_prgaRun {s t : State} {bytes zs : List Byte} (hdout : t.dout = s.dout ++ bytes)
    (hsdin : t.sdin = s.sdin.drop bytes.length) (hrun : prgaRun bytes.length s.gen = some (zs, t.gen)) :
    DeliversByPrga s t := by
  refine ⟨bytes, zs, hdout, hsdin, hrun, ?_, fun _ => readS_of_prgaRun hrun⟩
  rintro rfl
  exact (Prod.mk.inj (Option.some.inj hrun)).2.symm

theorem deliversByPrga_of_unchanged {s t : State} (hdout : t.dout = s.dout) (hsdin : t.sdin = s.sdin)
    (hgen : t.gen = s.gen) : DeliversByPrga s t :=
  deliversByPrga_of_prgaRun (bytes := []) (by rw [hdout, List.append_nil]) hsdin (by rw [hgen]; rfl)

theorem takeAnswer_deliversByPrga {n : Count} {s t : State} (h : takeAnswer n s = .next t) : DeliversByPrga s t := by
  rcases takeAnswer_cases h with ⟨-, rfl⟩ | ⟨r, rest, -, -, rfl⟩ | ⟨r, rest, out, g, -, -, -, hl, hx, rfl⟩
  · exact deliversByPrga_of_unchanged rfl rfl rfl
  · exact deliversByPrga_of_unchanged rfl rfl rfl
  · have hlen : out.length = (countField r).toNat := by rw [xorRun_length hx, List.length_take_of_le hl]
    obtain ⟨zs, hrun⟩ := prgaRun_of_xorRun hx
    rw [← xorRun_length hx] at hrun
    exact deliversByPrga_of_prgaRun rfl (by rw [hlen]) hrun

/-- Settles O46: the frame of each thing a read can do: a wait, an error and data after the request, or the refusal outside ADP. -/
theorem frameOfTheReads : Obligations.FrameOfTheReads := by
  intro i n s t hi h
  rw [exec_eq_readSource hi] at h
  by_cases hp : s.phase = .adp
  · rw [readSource_of_adp hp] at h
    have hdelivers : DeliversByPrga s t := (takeAnswer_deliversByPrga h :)
    have hrefused : s.phase ≠ .adp → t = { s with rsp := s.rsp ++ [0x30000000#32] } := absurd hp
    rcases takeAnswer_cases h with ⟨-, rfl⟩ | ⟨r, rest, hs, -, rfl⟩ | ⟨r, rest, out, g, hs, -, -, -, -, rfl⟩
    · exact ⟨rfl, rfl, rfl, rfl, hdelivers, fun _ => ⟨rfl, .inl ⟨rfl, rfl, rfl, rfl, rfl, rfl⟩⟩, hrefused⟩
    · exact ⟨rfl, rfl, rfl, rfl, hdelivers, fun _ => ⟨rfl, .inr ⟨r, hs, rfl, rfl⟩⟩, hrefused⟩
    · exact ⟨rfl, rfl, rfl, rfl, hdelivers, fun _ => ⟨rfl, .inr ⟨r, hs, rfl, rfl⟩⟩, hrefused⟩
  · cases (readSource_of_phase_ne hp n).symm.trans h
    exact ⟨rfl, rfl, rfl, rfl, deliversByPrga_of_unchanged rfl rfl rfl, fun hadp => absurd hadp hp, fun _ => rfl⟩

end Sys2Proof.Machine

/-! PROOF. The family of 42_invariants_and_laws.md: the permutation (R131), several reads of one core (R133), the round trip through
two cores (R117, R132), and the empty key (R134). -/

namespace Sys2Proof.Machine

/-! ### The permutation (R131) -/

theorem isPermutation_of_constructed {key : List Byte} {g : Generator} (h : constructed key = some g) :
    IsPermutation g.S :=
  constructed_keeps keptBySwap_isPermutation h isPermutation_identityTable

theorem SessionGoesOn.keeps_isPermutation {s t : State} (h : SessionGoesOn s t) (hs : IsPermutation s.gen.S) :
    IsPermutation t.gen.S := by
  obtain ⟨n, zs, hrun⟩ := h.run
  exact prgaRun_keeps keptBySwap_isPermutation hrun hs

/-- `FILL`s go on with the session: in phase GEN by their PRGA steps, and outside it they are refused (R93, R154). -/
theorem fillAll_sessionGoesOn {ns : List Count} {s t : State} (h : fillAll ns s = .next t) : SessionGoesOn s t := by
  by_cases hp : s.phase = .gen
  · obtain ⟨zs, g, words, hrun, rfl⟩ := fillAll_producedBytes hp h
    exact ⟨rfl, ⟨_, zs, hrun⟩, .inl⟩
  · cases (fillAll_of_phase_ne ns hp).symm.trans h
    exact sessionGoesOn_of_gen_eq rfl rfl .inl

/-- Every instruction, `KEYSTREAM` too, goes on with the session or constructs the generator anew. -/
theorem exec_session_cases {i : Instr} {s t : State} (h : exec i s = .next t) :
    SessionGoesOn s t ∨ ∃ key, constructed key = some t.gen := by
  by_cases hi : ∃ n, i = .keystream n
  · obtain ⟨n, rfl⟩ := hi
    exact .inl (fillAll_sessionGoesOn h)
  · rcases (exec_effect (not_exists.mp hi) h).session_cases with hgo | ⟨p, l, g, -, hg, rfl⟩
    · exact .inl hgo
    · exact .inr ⟨_, hg⟩

/-- Settles O40: a construction swaps entries of the identity table, and going on with a session only swaps. -/
theorem permutationIsKept : Obligations.PermutationIsKept := by
  refine ⟨fun s l h1 h2 hk => ?_, fun i s t h hs => ?_, fun s t hl h hs => ?_⟩
  · obtain ⟨g, hg, hinit⟩ := exec_init_of_beats h1 h2 hk
    have hperm : IsPermutation g.S := isPermutation_of_constructed hg
    exact ⟨⟨_, hinit, hperm⟩, _, construct_of_constructed .adp (ainitWord l) h1 h2 hk hg, hperm⟩
  · rcases exec_session_cases h with hgo | ⟨key, hg⟩
    · exact hgo.keeps_isPermutation hs
    · exact isPermutation_of_constructed hg
  · rcases step_session_cases h with ⟨hreset, -⟩ | hgo | ⟨-, -, w, rest, p, l, g, -, -, hg, rfl⟩
    · simp [hl] at hreset
    · exact hgo.keeps_isPermutation hs
    · exact isPermutation_of_constructed hg

/-! ### The empty key (R134, R151) -/

/-- Settles O10: both constructions test the length before anything else is read or written. -/
theorem emptyKeyAlwaysFails : Obligations.EmptyKeyAlwaysFails :=
  fun s => ⟨construct_of_emptyKey (l := 0#9) .gen (initWord 0#9) s rfl,
    construct_of_emptyKey (l := 0#9) .adp (ainitWord 0#9) s rfl⟩

/-! ### The reference cipher on data in pieces, and twice (R7, R111) -/

@[simp] theorem refBytes_length (n : Nat) (r : RefGen) : (refBytes n r).length = n := by
  induction n generalizing r with
  | zero => rfl
  | succ n ih => rw [refBytes, List.length_cons, ih]

@[simp] theorem refCipher_nil (r : RefGen) : refCipher [] r = [] := rfl

theorem refCipher_cons (d : Byte) (ds : List Byte) (r : RefGen) :
    refCipher (d :: ds) r = (d ^^^ (refStep r).1) :: refCipher ds (refStep r).2 := rfl

@[simp] theorem refCipher_length (ds : List Byte) (r : RefGen) : (refCipher ds r).length = ds.length := by
  simp [refCipher]

theorem refCipher_append (ds es : List Byte) (r : RefGen) :
    refCipher (ds ++ es) r = refCipher ds r ++ refCipher es (refAfter ds.length r) := by
  induction ds generalizing r with
  | nil => rfl
  | cons d ds ih => rw [List.cons_append, refCipher_cons, refCipher_cons, ih, List.cons_append, List.length_cons, refAfter]

/-- At the same keystream position the second XOR undoes the first (R7). -/
theorem refCipher_refCipher (ds : List Byte) (r : RefGen) : refCipher (refCipher ds r) r = ds := by
  induction ds generalizing r with
  | nil => rfl
  | cons d ds ih => rw [refCipher_cons, refCipher_cons, ih, BitVec.xor_assoc, BitVec.xor_self, BitVec.xor_zero]

/-! ### One `READ` over an answer that keeps the contract (R111, R112) -/

/-- The source's data XORed on the way, as an upper core gets them: word and number of beats are the same (R113, R117). -/
def ReadStep.ciphered (q : ReadStep) (r : RefGen) : ReadStep := { q with data := refCipher q.data r }

theorem ReadStep.kept.ciphered {q : ReadStep} (hq : q.kept) (r : RefGen) : (q.ciphered r).kept := by
  obtain ⟨hok, herror⟩ := hq
  refine ⟨fun h => ?_, fun h => ?_⟩
  · simpa [ReadStep.ciphered] using hok h
  · simp [ReadStep.ciphered, herror h]

/-- What a core in phase ADP is after a `READ` over the answer `q`, with the generator `g` and nothing left on `SRSP` and `SDIN`. -/
def afterAnswer (q : ReadStep) (r : RefGen) (g : Generator) (s : State) : State :=
  { s with gen := g, inFlight := none, srsp := [], sdin := [], rsp := s.rsp ++ [q.answer],
           dout := s.dout ++ refCipher q.data r }

/-- An answer that keeps the contract is taken whole, data or an error word, and its data are XORed with the keystream. -/
theorem takeAnswer_of_kept {q : ReadStep} {s : State} {r : RefGen} (hq : q.kept) (hg : Represents s.gen r)
    (hs : s.srsp = [q.answer]) (hd : s.sdin = q.data) :
    ∃ g, takeAnswer q.n s = .next (afterAnswer q r g s) ∧ Represents g (refAfter q.data.length r) := by
  obtain ⟨hok, herror⟩ := hq
  by_cases hr : statusField q.answer = statusOk
  · obtain ⟨hcount, hn⟩ := hok hr
    obtain ⟨g, hx, hg'⟩ := xorRun_of_represents q.data hg
    have htake : s.sdin.take (countField q.answer).toNat = q.data := by rw [hcount, hd, List.take_length]
    have hdrop : s.sdin.drop (countField q.answer).toNat = [] := by rw [hcount, hd, List.drop_length]
    rw [← htake] at hx
    refine ⟨g, ?_, hg'⟩
    rw [takeAnswer_of_data hs hr (hcount.trans_le hn) (by rw [hcount, hd]) hx, htake, hdrop, afterAnswer]
  · rw [herror hr] at hd
    refine ⟨s.gen, ?_, by rwa [herror hr]⟩
    rw [takeAnswer_of_error hs hr, afterAnswer, herror hr, refCipher_nil, List.append_nil, ← hd]

/-! ### Several reads of one core (R133) -/

theorem readScript_cons {q : ReadStep} (qs : List ReadStep) {s t : State}
    (h : exec (.read q.n) (sourceAnswers q.answer q.data s) = .next t) : readScript (q :: qs) s = readScript qs t := by
  simp only [readScript, h]

theorem scriptData_cons (q : ReadStep) (qs : List ReadStep) : scriptData (q :: qs) = q.data ++ scriptData qs := rfl

theorem exec_read_of_kept {q : ReadStep} {s : State} {r : RefGen} (hq : q.kept) (hp : s.phase = .adp)
    (hg : Represents s.gen r) (hs : s.srsp = []) (hd : s.sdin = []) :
    ∃ g, exec (.read q.n) (sourceAnswers q.answer q.data s) =
        .next (afterAnswer q r g (sendDown (wordOf 5 q.n.toNat) s)) ∧
      Represents g (refAfter q.data.length r) := by
  rw [exec_read_of_adp (s := sourceAnswers q.answer q.data s) hp]
  exact takeAnswer_of_kept (s := sendDown _ (sourceAnswers q.answer q.data s)) hq hg (by simp [hs]) (by simp [hd])

/-- Settles O26, by induction on the script: each `READ` delivers its piece and leaves the generator where the next piece begins. -/
theorem partialReadsDeliverTheWhole : Obligations.PartialReadsDeliverTheWhole := by
  intro s r qs hp hg hs hd hkept
  induction qs generalizing s r with
  | nil => exact ⟨s, rfl, (List.append_nil _).symm, hg, (List.append_nil _).symm⟩
  | cons q qs ih =>
    obtain ⟨hq, hqs⟩ := List.forall_mem_cons.mp hkept
    obtain ⟨g, hread, hg'⟩ := exec_read_of_kept hq hp hg hs hd
    obtain ⟨t, hscript, hdout, hgen, hrsp⟩ := ih (afterAnswer q r g (sendDown _ s)) _ hp hg' rfl rfl hqs
    refine ⟨t, (readScript_cons qs hread).trans hscript, ?_, ?_, ?_⟩
    · rw [hdout, scriptData_cons, refCipher_append, ← List.append_assoc]
      rfl
    · rwa [scriptData_cons, List.length_append, refAfter_add]
    · rw [hrsp, List.map_cons, List.append_cons]
      rfl

/-! ### Two cores, one over the other (R117, R132) -/

/-- Core B over core A between two reads, both at the keystream position `r`: nothing is under way between them. The requests that A
has sent to its source stay on A's `SCMD`. -/
structure CoresInStep (b a : State) (r : RefGen) : Prop where
  upperAtRest : AdapterAtRest b
  lowerPhase : a.phase = .adp
  lowerReady : Ready a
  lowerCmd : a.cmd = []
  lowerSrsp : a.srsp = []
  lowerSdin : a.sdin = []
  lowerRsp : a.rsp = []
  lowerDout : a.dout = []
  upperGen : Represents b.gen r
  lowerGen : Represents a.gen r

/-- The lower core takes the request relayed to it and answers with the source's data XORed. -/
theorem step_of_relayedRequest {q : ReadStep} {a : State} {r : RefGen} (hq : q.kept) (hp : a.phase = .adp) (hr : Ready a)
    (hs : a.srsp = []) (hd : a.sdin = []) (hg : Represents a.gen r) :
    ∃ g, step (sourceAnswers q.answer q.data { a with cmd := [wordOf 5 q.n.toNat] }) =
        .next (afterAnswer q r g (sendDown (wordOf 5 q.n.toNat) { a with cmd := [] })) ∧
      Represents g (refAfter q.data.length r) := by
  have hdecode : decode (wordOf 5 q.n.toNat) = .read q.n := by rw [← readWord_eq_wordOf, decode_readWord]
  have hstep := step_of_command (s := sourceAnswers q.answer q.data { a with cmd := [wordOf 5 q.n.toNat] }) hr rfl
  rw [hdecode] at hstep
  rw [hstep]
  exact exec_read_of_kept (s := { a with cmd := [] }) hq hp hg hs hd

/-- The upper core, waiting, takes the lower core's answer: at the same keystream position it delivers the source's data. -/
theorem step_of_relayedAnswer {q : ReadStep} {b : State} {r : RefGen} (hq : q.kept) (hl : b.resetLine = false)
    (hs : b.srsp = [q.answer]) (hd : b.sdin = refCipher q.data r) (hg : Represents b.gen r) :
    ∃ g, step { b with inFlight := some q.n } = .next (afterAnswer (q.ciphered r) r g b) ∧
      Represents g (refAfter q.data.length r) := by
  obtain ⟨g, hanswer, hg'⟩ := takeAnswer_of_kept (hq.ciphered r) hg hs hd
  refine ⟨g, (step_of_waiting hl q.n).trans hanswer, ?_⟩
  rwa [ReadStep.ciphered, refCipher_length] at hg'

theorem readThrough_of_steps {q : ReadStep} {b a b₁ a₁ b₂ : State} (hrequest : exec (.read q.n) b = .next b₁)
    (hlower : step (sourceAnswers q.answer q.data (relayRequests b₁ a).2) = .next a₁)
    (hupper : step (relayAnswers (relayRequests b₁ a).1 a₁).1 = .next b₂) :
    readThrough q b a = .next (b₂, (relayAnswers (relayRequests b₁ a).1 a₁).2) := by
  simp only [readThrough, hrequest, hlower, hupper]

/-- One `READ` through both cores delivers the source's data: B XORs with the bytes that A has XORed with. -/
theorem readThrough_of_coresInStep {q : ReadStep} {b a : State} {r : RefGen} (hq : q.kept) (h : CoresInStep b a r) :
    ∃ b' a', readThrough q b a = .next (b', a') ∧ CoresInStep b' a' (refAfter q.data.length r) ∧
      b'.dout = b.dout ++ q.data ∧ b'.rsp = b.rsp ++ [q.answer] := by
  obtain ⟨⟨hbp, hbr, hbc, hbscmd, hbs, hbd⟩, hp, hr, hc, hs, hd, hrsp, hdout, hbg, hg⟩ := h
  have hrequest : exec (.read q.n) b = .next { b with inFlight := some q.n, scmd := b.scmd ++ [wordOf 5 q.n.toNat] } :=
    (exec_read_of_adp hbp q.n).trans (takeAnswer_of_incomplete (.inl hbs))
  have hrelayed : a.cmd ++ (b.scmd ++ [wordOf 5 q.n.toNat]) = [wordOf 5 q.n.toNat] := by rw [hc, hbscmd]; rfl
  obtain ⟨ga, hlower, hga⟩ := step_of_relayedRequest hq hp hr hs hd hg
  rw [← hrelayed] at hlower
  obtain ⟨gb, hupper, hgb⟩ := step_of_relayedAnswer (b := { b with
    scmd := [], srsp := b.srsp ++ (a.rsp ++ [q.answer]), sdin := b.sdin ++ (a.dout ++ refCipher q.data r) })
    hq hbr.1 (by simp [hbs, hrsp]) (by simp [hbd, hdout]) hbg
  refine ⟨_, _, readThrough_of_steps hrequest hlower hupper, ?_, ?_, rfl⟩
  · exact ⟨⟨hbp, ⟨hbr.1, rfl⟩, hbc, rfl, rfl, rfl⟩, hp, ⟨hr.1, rfl⟩, rfl, rfl, rfl, rfl, rfl, hgb, hga⟩
  · show b.dout ++ refCipher (refCipher q.data r) r = b.dout ++ q.data
    rw [refCipher_refCipher]

theorem pairScript_cons {q : ReadStep} (qs : List ReadStep) {b a b' a' : State}
    (h : readThrough q b a = .next (b', a')) : pairScript (q :: qs) b a = pairScript qs b' a' := by
  simp only [pairScript, h]

/-- The script's reads keep the two cores at the same keystream position, and B delivers the source's data piece by piece. -/
theorem pairScript_of_coresInStep {qs : List ReadStep} {b a : State} {r : RefGen} (hkept : ∀ q ∈ qs, q.kept)
    (h : CoresInStep b a r) :
    ∃ b' a', pairScript qs b a = .next (b', a') ∧ CoresInStep b' a' (refAfter (scriptData qs).length r) ∧
      b'.dout = b.dout ++ scriptData qs ∧ b'.rsp = b.rsp ++ qs.map (fun q => q.answer) := by
  induction qs generalizing b a r with
  | nil => exact ⟨b, a, rfl, h, (List.append_nil _).symm, (List.append_nil _).symm⟩
  | cons q qs ih =>
    obtain ⟨hq, hqs⟩ := List.forall_mem_cons.mp hkept
    obtain ⟨b₁, a₁, hread, h₁, hdout₁, hrsp₁⟩ := readThrough_of_coresInStep hq h
    obtain ⟨b₂, a₂, hscript, h₂, hdout₂, hrsp₂⟩ := ih hqs h₁
    refine ⟨b₂, a₂, (pairScript_cons qs hread).trans hscript, ?_, ?_, ?_⟩
    · rwa [scriptData_cons, List.length_append, refAfter_add]
    · rw [hdout₂, hdout₁, List.append_assoc, scriptData_cons]
    · rw [hrsp₂, hrsp₁, List.append_assoc, List.singleton_append, List.map_cons]

/-- Settles O27: two cores at rest at the same keystream position are in step, and a script of reads keeps them so. -/
theorem roundTripThroughTwoCores : Obligations.RoundTripThroughTwoCores := by
  intro b a r qs hb ⟨hp, hr, hc, _, hs, hd⟩ hrsp hdout hbg hag hkept
  obtain ⟨b', a', hscript, hstep, hdout', hrsp'⟩ :=
    pairScript_of_coresInStep hkept ⟨hb, hp, hr, hc, hs, hd, hrsp, hdout, hbg, hag⟩
  exact ⟨b', a', hscript, hdout', hrsp', hstep.upperGen, hstep.lowerGen⟩

end Sys2Proof.Machine

/-! PROOF. The family of 60_exceptions.md: the acceptance by phase and the order of the tests (R154, R158), the answers of a source
that are not data (R113, R118, R156), what an error leaves unchanged (R159), and where a step can stop (R157). -/

namespace Sys2Proof.Machine

/-! ### Acceptance by phase (R154) -/

/-- On a written table `FILL` is accepted in phase GEN (R93). -/
theorem exec_fill_of_full {s : State} (hp : s.phase = .gen) (hfull : Full s.gen.S) (n : Count) :
    ∃ t, exec (.fill n) s = .next t ∧ t.rsp = s.rsp ++ [wordOf 0 n.toNat] := by
  obtain ⟨zs, g, hrun⟩ := prgaRun_of_full n.toNat hfull
  exact ⟨_, exec_fill_of_prgaRun hp hrun, by rw [okWord_eq_wordOf]⟩

/-- Settles O30: the test of the phase comes first; past it a written table, and for a construction its key beats, suffice. -/
theorem acceptanceByPhase : Obligations.AcceptanceByPhase := by
  refine fun s => ⟨fun hp => ⟨execFill_of_phase_ne hp 1#16, execFill_of_phase_ne hp⟩, fun hp n => ?_,
    fun hp hfull => ⟨exec_fill_of_full hp hfull 1#16, exec_fill_of_full hp hfull⟩, fun hp hs n => ?_,
    fun l h1 h2 hk => ?_⟩
  · have hrefused := readSource_of_phase_ne hp n
    exact ⟨hrefused, hrefused, hrefused⟩
  · exact ⟨_, (exec_read_of_adp hp n).trans (takeAnswer_of_incomplete (.inl hs)), rfl, rfl⟩
  · obtain ⟨g, hg, hinit⟩ := exec_init_of_beats h1 h2 hk
    exact ⟨⟨_, hinit, rfl, rfl⟩, _, construct_of_constructed .adp (ainitWord l) h1 h2 hk hg, rfl, rfl⟩

/-! ### A source's error and a source's broken contract (R113, R118, R152, R156) -/

/-- Settles O21: an error word is taken alike after the request and by a `READ` in flight. -/
theorem sourceErrorPassesUnchanged : Obligations.SourceErrorPassesUnchanged := by
  refine fun s n r rest hs hr => ⟨fun hp => ?_, fun hl hf => ?_⟩
  · rw [exec_read_of_adp hp]
    exact takeAnswer_of_error hs hr
  · rw [step_of_inFlight hl hf]
    exact takeAnswer_of_error hs hr

/-- The source has answered `READ n` with `OK` and a count over `n` (R118, R156). -/
def AnswerOverCount (n : Count) (s : State) : Prop :=
  ∃ r rest, s.srsp = r :: rest ∧ statusField r = statusOk ∧ n.toNat < (countField r).toNat

theorem takeAnswer_of_overCount {n : Count} {s : State} (h : AnswerOverCount n s) :
    takeAnswer n s = .fault .sourceOverCount := by
  obtain ⟨r, rest, hs, hr, hn⟩ := h
  have ha : answerOf n r = .overCount := by simp [answerOf, hr, hn]
  simp only [takeAnswer, hs, ha]

/-- Settles O23: such an answer is a fault alike after the request, under each spelling, and for a `READ` in flight. -/
theorem overCountFaults : Obligations.OverCountFaults := by
  refine fun s n r rest hs hr hn => ⟨fun hp => ?_, fun hl hf => ?_⟩
  · have hread := (readSource_of_adp hp n).trans (takeAnswer_of_overCount (s := sendDown _ s) ⟨r, rest, hs, hr, hn⟩)
    exact ⟨hread, hread, hread⟩
  · rw [step_of_inFlight hl hf]
    exact takeAnswer_of_overCount ⟨r, rest, hs, hr, hn⟩

/-! ### The order of the tests (R158) -/

section
variable {s : State} {w : Word} {rest : List Word} (hr : Ready s) (hc : s.cmd = w :: rest)
include hr hc

theorem step_of_wrongPhase (hrsv : rsvNumber w = 0) (harg : opNumber w = 3 → argNumber w = 0)
    (hp : ((opNumber w = 3 ∨ opNumber w = 4) ∧ s.phase ≠ .gen) ∨ (opNumber w = 5 ∧ s.phase ≠ .adp)) :
    step s = .next { s with cmd := rest, rsp := s.rsp ++ [0x30000000#32] } := by
  rw [step_of_command hr hc]
  rcases hp with ⟨hop | hop, hp⟩ | ⟨hop, hp⟩
  · rw [decode_of_opNumber_three hrsv hop (harg hop)]
    exact execFill_of_phase_ne (s := { s with cmd := rest }) hp 1#16
  · rw [decode_of_opNumber_four hrsv hop]
    exact execFill_of_phase_ne (s := { s with cmd := rest }) hp _
  · rw [decode_of_opNumber_five hrsv hop]
    exact readSource_of_phase_ne (s := { s with cmd := rest }) hp _

theorem step_of_emptyKey (hrsv : rsvNumber w = 0) (hop : opNumber w = 1 ∨ opNumber w = 2) (harg : argNumber w = 0) :
    step s = .next { s with cmd := rest, rsp := s.rsp ++ [0x10000000#32] } := by
  have hd : decode w = .init 0#9 ∨ decode w = .ainit 0#9 := by
    rw [← BitVec.ofNat_eq_ofNat, ← harg]
    exact hop.imp (decode_of_opNumber_one hrsv · (by omega)) (decode_of_opNumber_two hrsv · (by omega))
  obtain ⟨-, p, hstep⟩ := step_of_construction hr hc hd
  exact hstep.trans (construct_of_emptyKey p w _ rfl)

/-- A `READ` taken from `CMD` in phase ADP sends its own word downstream, and forwards the source's error (R111, R113). -/
theorem step_of_sourceError {r : Word} {more : List Word} (hrsv : rsvNumber w = 0) (hop : opNumber w = 5)
    (hp : s.phase = .adp) (hs : s.srsp = r :: more) (herr : statusField r ≠ statusOk) :
    step s = .next { s with cmd := rest, scmd := s.scmd ++ [w], srsp := more, rsp := s.rsp ++ [r] } := by
  obtain ⟨n, hd⟩ : ∃ n, decode w = .read n := ⟨_, decode_of_opNumber_five hrsv hop⟩
  have hw : w = wordOf 5 n.toNat := by
    rw [← readWord_eq_wordOf]
    exact decode_injective (hd.trans (decode_readWord n).symm)
  rw [step_of_command hr hc, hd, (sourceErrorPassesUnchanged { s with cmd := rest } n r more hs herr).1 hp, ← hw,
    ← hr.2]

end

/-- Settles O31: a word that is not reserved has `RSV` zero, so it decodes by its number `OP`, and its operation tests the phase
before the key length and before it asks the source. -/
theorem testsInOrder : Obligations.TestsInOrder := by
  refine fun s w rest hr hc => ⟨step_of_reservedWord hr hc, fun hw => ?_⟩
  obtain ⟨hrsv, harg⟩ : rsvNumber w = 0 ∧ (opNumber w = 3 → argNumber w = 0) := by
    rw [isReservedWord, decide_eq_false_iff_not] at hw
    omega
  exact ⟨step_of_wrongPhase hr hc hrsv harg, step_of_emptyKey hr hc hrsv,
    fun hop hp r more hs herr => step_of_sourceError hr hc hrsv hop hp hs herr, step_of_command hr hc⟩

/-! ### What an error leaves unchanged (R151, R154, R155, R159) -/

/-- From `s` to `t` the session, the bytes delivered and the operand channels are unchanged, and no `READ` is left in flight. -/
def ErrorFrame (s t : State) : Prop :=
  t.phase = s.phase ∧ t.gen = s.gen ∧ t.dout = s.dout ∧ t.key = s.key ∧ t.sdin = s.sdin ∧ t.inFlight = none

/-- A step that sends one error word sends no word `OK`. -/
theorem rsp_ne_of_error {s t : State} {r ok : Word} (hrsp : t.rsp = s.rsp ++ [r]) (herr : statusField r ≠ statusOk)
    (hok : statusField ok = statusOk) : t.rsp ≠ s.rsp ++ [ok] := by
  intro hsent
  obtain rfl : r = ok := by simpa using hrsp.symm.trans hsent
  exact herr hok

theorem takeAnswer_errorFrame {n : Count} {s t : State} {r : Word} (h : takeAnswer n s = .next t)
    (hrsp : t.rsp = s.rsp ++ [r]) (herr : statusField r ≠ statusOk) : ErrorFrame s t := by
  rcases takeAnswer_cases h with ⟨-, rfl⟩ | ⟨r', rest, -, -, rfl⟩ | ⟨r', rest, out, g, -, hok, -, -, -, rfl⟩
  · simp at hrsp
  · exact ⟨rfl, rfl, rfl, rfl, rfl, rfl⟩
  · exact absurd rfl (rsp_ne_of_error hrsp herr hok)

/-- Of the effects of an instruction those with an error word have the frame: a wait has no word, a success the word `OK`. -/
theorem Effect.errorFrame {i : Instr} {s t : State} {r : Word} (h : Effect i s t) (hf : s.inFlight = none)
    (hrsp : t.rsp = s.rsp ++ [r]) (herr : statusField r ≠ statusOk) : ErrorFrame s t := by
  cases h with
  | error r' _ ht => subst ht; exact ⟨rfl, rfl, rfl, rfl, rfl, hf⟩
  | readError n r' rest _ _ _ _ ht => subst ht; exact ⟨rfl, rfl, rfl, rfl, rfl, rfl⟩
  | wait w l _ _ _ ht => subst ht; simp at hrsp
  | readWaits n _ _ _ ht => subst ht; simp at hrsp
  | construction p l g _ _ _ _ _ ht => subst ht; exact absurd rfl (rsp_ne_of_error hrsp herr (statusField_okWord 0#16))
  | production n zs g _ _ _ ht => subst ht; exact absurd rfl (rsp_ne_of_error hrsp herr (statusField_okWord n))
  | readData n r' rest out g _ _ _ hok _ _ _ ht => subst ht; exact absurd rfl (rsp_ne_of_error hrsp herr hok)

/-- Settles O32: the reset event and the idle step send no word, and each effect that sends an error has the frame. -/
theorem errorsChangeNothingElse : Obligations.ErrorsChangeNothingElse := by
  intro s t r h hrsp herr
  show ErrorFrame s t
  cases hl : s.resetLine with
  | true =>
    cases (step_of_resetLine hl).symm.trans h
    simp at hrsp
  | false =>
    rcases step_effect_cases hl h with ⟨n, -, hread⟩ | ⟨hf, w, rest, -, heffect⟩ | rfl
    · exact takeAnswer_errorFrame hread hrsp herr
    · exact heffect.errorFrame hf hrsp herr
    · simp at hrsp

/-! ### Where a step can stop (R156, R157) -/

/-- The outcome is a next state, or the fault of a source's broken contract, and then `P` holds. -/
def StopsOnlyOverCount (P : Prop) (o : Host.Outcome State Fault Refusal) : Prop :=
  (∃ t, o = .next t) ∨ (P ∧ o = .fault .sourceOverCount)

theorem StopsOnlyOverCount.imp {P Q : Prop} {o : Host.Outcome State Fault Refusal} (h : StopsOnlyOverCount P o)
    (hpq : P → Q) : StopsOnlyOverCount Q o :=
  Or.imp_right (And.imp_left hpq) h

theorem xorRun_of_full (ds : List Byte) {g : Generator} (hg : Full g.S) : ∃ out g', xorRun ds g = some (out, g') := by
  obtain ⟨zs, g', hrun⟩ := prgaRun_of_full ds.length hg
  exact ⟨_, g', xorRun_of_prgaRun hrun⟩

/-- On a written table each answer but one over the count is taken or waited for (R111, R112, R113, R118). -/
theorem takeAnswer_stopsOnlyOverCount {s : State} (hfull : Full s.gen.S) (n : Count) :
    StopsOnlyOverCount (AnswerOverCount n s) (takeAnswer n s) := by
  cases hs : s.srsp with
  | nil => exact .inl ⟨_, takeAnswer_of_incomplete (.inl hs)⟩
  | cons r rest =>
    by_cases hr : statusField r = statusOk
    · rcases Nat.lt_or_ge n.toNat (countField r).toNat with hover | hn
      · have hanswer : AnswerOverCount n s := ⟨r, rest, hs, hr, hover⟩
        exact .inr ⟨hanswer, takeAnswer_of_overCount hanswer⟩
      · rcases Nat.lt_or_ge s.sdin.length (countField r).toNat with hmissing | hl
        · exact .inl ⟨_, takeAnswer_of_incomplete (.inr ⟨r, rest, hs, hr, hn, hmissing⟩)⟩
        · obtain ⟨out, g, hx⟩ := xorRun_of_full (s.sdin.take (countField r).toNat) hfull
          exact .inl ⟨_, takeAnswer_of_data hs hr hn hl hx⟩
    · exact .inl ⟨_, takeAnswer_of_error hs hr⟩

/-- A construction completes from every state: it reads no entry of `S` that it has not written itself (R90). -/
theorem construct_completes (p : Phase) (w : Word) (l : KeyLen) (s : State) : ∃ t, construct p w l s = .next t := by
  rcases Nat.lt_or_ge 256 l.toNat with hlong | h256
  · exact ⟨_, construct_of_tooLong p w s hlong⟩
  rcases Nat.eq_zero_or_pos l.toNat with hzero | hpos
  · exact ⟨_, construct_of_emptyKey p w s hzero⟩
  rcases Nat.lt_or_ge s.key.length l.toNat with hmissing | hkey
  · exact ⟨_, construct_of_missingBeats p w h256 hmissing⟩
  · obtain ⟨g, hg, -⟩ := exec_init_of_beats hpos h256 hkey
    exact ⟨_, construct_of_constructed p w hpos h256 hkey hg⟩

section
variable {s : State} (hfull : s.phase ≠ .unkeyed → Full s.gen.S)
include hfull

theorem execFill_completes (n : Count) : ∃ t, execFill n s = .next t := by
  by_cases hp : s.phase = .gen
  · obtain ⟨t, hfill, -⟩ := exec_fill_of_full hp (hfull (by simp [hp])) n
    exact ⟨t, hfill⟩
  · exact ⟨_, execFill_of_phase_ne hp n⟩

theorem readSource_stopsOnlyOverCount (n : Count) :
    StopsOnlyOverCount (s.phase = .adp ∧ AnswerOverCount n s) (readSource n s) := by
  by_cases hp : s.phase = .adp
  · rw [readSource_of_adp hp]
    exact (takeAnswer_stopsOnlyOverCount (s := sendDown _ s) (hfull (by simp [hp])) n).imp fun hover => ⟨hp, hover⟩
  · exact .inl ⟨_, readSource_of_phase_ne hp n⟩

/-- Once a construction has written the table, an instruction that a word decodes to stops only in a `READ` (R157). -/
theorem exec_stopsOnlyOverCount {i : Instr} (hi : i.isPseudo = false) :
    StopsOnlyOverCount (s.phase = .adp ∧ ∃ n, i = .read n ∧ AnswerOverCount n s) (exec i s) := by
  cases hres : i.isReserved with
  | true => exact .inl ⟨_, exec_of_isReserved hres s⟩
  | false =>
    cases i with
    | init l => exact .inl (construct_completes .gen (initWord l) l s)
    | ainit l => exact .inl (construct_completes .adp (ainitWord l) l s)
    | next => exact .inl (execFill_completes hfull 1#16)
    | fill n => exact .inl (execFill_completes hfull n)
    | read n => exact (readSource_stopsOnlyOverCount hfull n).imp fun ⟨hp, hover⟩ => ⟨hp, n, rfl, hover⟩
    | encrypt _ | decrypt _ | keystream _ => cases hi
    | reservedOp0 _ | reservedOp6_7 _ _ | reservedOp8_F _ _ | reservedRsv _ _ _ => cases hres
    | reservedKeylenInit _ | reservedKeylenAinit _ | reservedNextarg _ => cases hres

end

/-- The next step goes on with, or takes from `CMD`, a `READ n`. -/
def ReadUnderWay (n : Count) (s : State) : Prop :=
  s.inFlight = some n ∨ (s.inFlight = none ∧ ∃ w more, s.cmd = w :: more ∧ decode w = .read n)

theorem step_stopsOnlyOverCount {s : State} (hs : Inv s) :
    StopsOnlyOverCount (s.phase = .adp ∧ ∃ n, ReadUnderWay n s ∧ AnswerOverCount n s) (step s) := by
  obtain ⟨-, -, hperm, hflight⟩ := hs
  have hfull : s.phase ≠ .unkeyed → Full s.gen.S := fun hp => (hperm hp).1
  rcases step_cases rfl with ⟨-, hreset⟩ | ⟨-, n, hf, hread⟩ | ⟨-, hf, w, more, hc, hexec⟩ | ⟨-, -, -, hidle⟩
  · exact .inl ⟨_, hreset⟩
  · have hp : s.phase = .adp := hflight (by simp [hf])
    rw [← hread]
    exact (takeAnswer_stopsOnlyOverCount (hfull (by simp [hp])) n).imp fun hover => ⟨hp, n, .inl hf, hover⟩
  · rw [← hexec]
    exact (exec_stopsOnlyOverCount (s := { s with cmd := more }) hfull (isPseudo_decode w)).imp
      fun ⟨hp, n, hd, hover⟩ => ⟨hp, n, .inr ⟨hf, w, more, hc, hd⟩, hover⟩
  · exact .inl ⟨_, hidle⟩

/-- Settles O35: the invariant gives a written table outside the unkeyed phase, and phase ADP to a `READ` in flight. -/
theorem onlyTheSourceCanFault : Obligations.OnlyTheSourceCanFault := by
  intro s hs
  rcases step_stopsOnlyOverCount hs with ⟨t, hnext⟩ | ⟨⟨hp, n, hread, r, rest, hanswer⟩, hfault⟩
  · exact ⟨fun f h => (nomatch hnext.symm.trans h), fun e h => (nomatch hnext.symm.trans h)⟩
  · refine ⟨fun f h => ?_, fun e h => (nomatch hfault.symm.trans h)⟩
    cases hfault.symm.trans h
    exact ⟨rfl, hp, n, r, rest, hread, hanswer⟩

end Sys2Proof.Machine

/-! PROOF. The family of 70_reset_and_hazards.md: the state after reset and the reset event (R34, R180, R181), and the wait for an
answer that is not there whole (R118, R190). -/

namespace Sys2Proof.Machine

/-! ### Reset (R34, R180, R181) -/

/-- After reset no entry of `S` holds a value (R34). -/
theorem readS_reset (a : Index) : readS State.reset.gen.S a = none := readCell_nil a.toNat

/-- Settles O36: the fields of the reset state, and a table that lists no entry. -/
theorem resetIsUnkeyedAndEmpty : Obligations.ResetIsUnkeyedAndEmpty :=
  ⟨reset_phase, rfl, readS_reset, reset_inFlight, reset_cmd, reset_key, reset_rsp, reset_dout, reset_scmd, reset_srsp,
    reset_sdin⟩

/-- Settles O37: the test of the reset input comes before every other, and the reset event gives the reset state. -/
theorem resetEventAbandonsEverything : Obligations.ResetEventAbandonsEverything := by
  intro s hl
  obtain ⟨hphase, -, hS, hflight, hchannels⟩ := resetIsUnkeyedAndEmpty
  exact ⟨State.reset, step_of_resetLine hl, hphase, hS, hflight, reset_resetLine, hchannels⟩

/-- Settles O38: this is where the induction of `everyStepKeepsTheInvariant` starts. -/
theorem invariantHoldsAtReset : Obligations.InvariantHoldsAtReset := inv_reset

/-! ### The wait for an answer (R118, R190) -/

/-- A `READ` in flight whose answer is incomplete goes on waiting, and the state stays as it is (R190). -/
theorem step_of_incomplete {s : State} {n : Count} (hl : s.resetLine = false) (hf : s.inFlight = some n)
    (h : AnswerIncomplete n s) : step s = .next s := by
  have hsame : { s with inFlight := some n } = s := by rw [← hf]
  calc step s = takeAnswer n s := step_of_inFlight hl hf
    _ = .next { s with inFlight := some n } := takeAnswer_of_incomplete h
    _ = .next s := by rw [hsame]

/-- Settles O24: the request goes out on `SCMD`, which leaves the answer incomplete, so the core waits; a step of the wait is idle. -/
theorem incompleteAnswerWaits : Obligations.IncompleteAnswerWaits := by
  intro s n h
  have hsent : AnswerIncomplete n (sendDown (wordOf 5 n.toNat) s) := h
  exact ⟨fun hp => (exec_read_of_adp hp n).trans (takeAnswer_of_incomplete hsent),
    fun hl hf => step_of_incomplete hl hf h⟩

end Sys2Proof.Machine

/-! PROOF. The reserved rows as instructions (R71, R155): whatever their fields, they only raise `ILLEGAL`. -/

namespace Sys2Proof.Machine

/-- A reserved row completes with the word of `ILLEGAL` and changes nothing else (R155, R159). -/
theorem exec_of_isReserved_eq_next {i : Instr} (hi : i.isReserved = true) (s : State) :
    exec i s = .next { s with rsp := s.rsp ++ [0x40000000#32] } := by
  rw [exec_of_isReserved hi, raise_eq, errorWord_illegal, respond]

/-- Settles O6: each of the seven rows is reserved by `Instr.isReserved`, whatever its fields. -/
theorem reservedInstructionsAnswerIllegal : Obligations.ReservedInstructionsAnswerIllegal := by
  intro s op rsv arg
  have hillegal (i : Instr) (hi : i.isReserved = true) := exec_of_isReserved_eq_next hi s
  exact ⟨hillegal (.reservedOp0 arg) rfl, hillegal (.reservedOp6_7 op arg) rfl, hillegal (.reservedOp8_F op arg) rfl,
    hillegal (.reservedRsv op rsv arg) rfl, hillegal (.reservedKeylenInit arg) rfl,
    hillegal (.reservedKeylenAinit arg) rfl, hillegal (.reservedNextarg arg) rfl⟩

end Sys2Proof.Machine
